-- ==== Sys2Proof/Config.lean ====
section
/-!
DEFINITION. What an implementation of the block fixes: the two parameters of 00_scope.md R7 and R8.
The spec leaves no value open after a step, so there is no free value here.
-/

namespace Sys2Proof

/-- `W`, the data width in bits (00_scope.md R7): 16 on this hardware. The command words, the commands,
the registers, the machine and the assembler take the width as an argument; the names whose types the
host fixes are their instances at this one (log 3). -/
abbrev Config.W : Nat := 16

/-- `F`, the number of fraction bits in the fixed-point reading of a word (00_scope.md R8): 8 on this
hardware. It changes no bit of any step (log 4). -/
abbrev Config.F : Nat := 8

end Sys2Proof
end

