-- ==== Sys2Proof/Word.lean ====
section
/-!
DEFINITION. The words that cross the block's ports. Bit 0 is the least significant bit of each
(00_scope.md R10).
-/

namespace Sys2Proof

/-- A data word: a sample, a step, the reference (00_scope.md R7). -/
abbrev Word := BitVec Config.W

/-- The three wires of `cmd_op` (10_state.md R22). -/
abbrev Op := BitVec 3

/-- The command word `CMD = {cmd_op, cmd_data}` of a block of width `W`: `W + 3` bits (30_encoding.md
R60). -/
abbrev CmdWordOf (W : Nat) := BitVec (3 + W)

/-- The command word of this hardware. -/
abbrev CmdWord := CmdWordOf Config.W

end Sys2Proof
end

