-- ==== Sys2Proof/Syntax.lean ====
section
/-!
DEFINITION. The commands, one constructor per row of spec/opcode_table.json (30_encoding.md R61).
-/

namespace Sys2Proof

/-- A command. Each keeps its whole `data` field, used as it stands (30_encoding.md R62): the operand
of SAMPLE and SET_STEP, and any value, without effect, in the others (93_implementation_defined.md
U5; log 8). -/
inductive Instr where
  /-- NOP, opcode 0b000 (41_control.md R100). -/
  | nop (data : Word)
  /-- SAMPLE, opcode 0b001: `data` is the sample (40_datapath.md R80). -/
  | sample (data : Word)
  /-- SET_STEP, opcode 0b010: `data` is the Step Size (41_control.md R102, R103). -/
  | setStep (data : Word)
  /-- CLEAR, opcode 0b011 (41_control.md R104). -/
  | clear (data : Word)
  /-- CLEAR_FLAGS, opcode 0b100 (41_control.md R106). -/
  | clearFlags (data : Word)
  /-- RSV5, the reserved opcode 0b101 (41_control.md R108). -/
  | rsv5 (data : Word)
  /-- RSV6, the reserved opcode 0b110 (41_control.md R108). -/
  | rsv6 (data : Word)
  /-- RSV7, the reserved opcode 0b111 (41_control.md R108). -/
  | rsv7 (data : Word)
deriving DecidableEq, Repr

end Sys2Proof
end

