-- ==== Sys2Proof/WellFormed.lean ====
section
/-!
DEFINITION. The checks the spec makes on parameters, command bits and commands.
-/

namespace Sys2Proof

/-- The constraints on the parameters: `W >= 2` (00_scope.md R7) and `0 <= F <= W - 1` (R8). -/
def Config.wf (w f : Nat) : Bool := decide (2 ≤ w) && decide (f ≤ w - 1)

/-- `n` can be put on the command wires of a block of width `w`: the word has `W + 3` bits, whatever
the command (30_encoding.md R60, R66). -/
def isCommandWord (w n : Nat) : Bool := decide (n < 2 ^ (3 + w))

/-- Every command is well formed. Every word of `W + 3` bits has exactly one effect (30_encoding.md
R65), and a SET_STEP whose operand is no legal step "is still a well-formed command" (R63). -/
def Instr.wf (i : Instr) : Bool :=
  match i with
  | .nop _ => true
  | .sample _ => true
  | .setStep _ => true
  | .clear _ => true
  | .clearFlags _ => true
  | .rsv5 _ => true
  | .rsv6 _ => true
  | .rsv7 _ => true

/-- The command as the assembler writes it: an ignored operand is 0 (30_encoding.md R62, "the host
should drive 0", and R67). A command that is not canonical is legal and has the same effect. -/
def Instr.canonical (i : Instr) : Bool :=
  match i with
  | .nop d => d == 0
  | .sample _ => true
  | .setStep _ => true
  | .clear d => d == 0
  | .clearFlags d => d == 0
  | .rsv5 d => d == 0
  | .rsv6 d => d == 0
  | .rsv7 d => d == 0

end Sys2Proof
end

