-- ==== Sys2Proof/Decode.lean ====
section
/-!
DEFINITION. The decoder and the encoder of command words (30_encoding.md R60 to R66), for every width
`W`, and as `Instr` at this hardware's. The block fetches nothing (10_state.md R21): a command word is
what the wires `cmd_op` and `cmd_data` carry at one edge.
-/

namespace Sys2Proof

/-- The eight commands, by their names in spec/opcode_table.json (30_encoding.md R61). -/
inductive Opcode where
  /-- NOP (41_control.md R100). -/
  | nop
  /-- SAMPLE (40_datapath.md R80). -/
  | sample
  /-- SET_STEP (41_control.md R102, R103). -/
  | setStep
  /-- CLEAR (41_control.md R104). -/
  | clear
  /-- CLEAR_FLAGS (41_control.md R106). -/
  | clearFlags
  /-- RSV5 (41_control.md R108). -/
  | rsv5
  /-- RSV6 (41_control.md R108). -/
  | rsv6
  /-- RSV7 (41_control.md R108). -/
  | rsv7
deriving DecidableEq, Repr

/-- A command of a block of width `W`: which one, and its operand (30_encoding.md R60, R62). -/
structure Command (W : Nat) where
  /-- The command `op` chooses. -/
  opcode : Opcode
  /-- The field `data`, used whole. -/
  data : BitVec W
deriving DecidableEq, Repr

/-- The field `data`, bits `W-1 : 0` of the command word (30_encoding.md R60). -/
def dataField {W : Nat} (c : CmdWordOf W) : BitVec W := c.extractLsb' 0 W

/-- The field `op`, bits `W+2 : W` of the command word (30_encoding.md R60). -/
def opField {W : Nat} (c : CmdWordOf W) : Op := c.extractLsb' W 3

/-- The opcode map, from `op` (30_encoding.md R61): each of its eight values chooses its own command. -/
def Opcode.ofBits (op : Op) : Opcode :=
  match op.toFin with
  | 0 => .nop
  | 1 => .sample
  | 2 => .setStep
  | 3 => .clear
  | 4 => .clearFlags
  | 5 => .rsv5
  | 6 => .rsv6
  | 7 => .rsv7

/-- The opcode map, to `op` (30_encoding.md R61). -/
def Opcode.bits (o : Opcode) : Op :=
  match o with
  | .nop => 0b000#3
  | .sample => 0b001#3
  | .setStep => 0b010#3
  | .clear => 0b011#3
  | .clearFlags => 0b100#3
  | .rsv5 => 0b101#3
  | .rsv6 => 0b110#3
  | .rsv7 => 0b111#3

/-- The decoder at every width. It needs only `op` (30_encoding.md R61), and it is total: every one of
the `2^(W+3)` words is a command (R65). -/
def decodeCommand {W : Nat} (c : CmdWordOf W) : Command W where
  opcode := Opcode.ofBits (opField c)
  data := dataField c

/-- The encoder at every width: `CMD = {cmd_op, cmd_data}` (30_encoding.md R60). -/
def encodeCommand {W : Nat} (c : Command W) : CmdWordOf W := c.opcode.bits ++ c.data

/-- The command of this hardware as the opcode table's row. -/
def Command.instr (c : Command Config.W) : Instr :=
  match c.opcode with
  | .nop => .nop c.data
  | .sample => .sample c.data
  | .setStep => .setStep c.data
  | .clear => .clear c.data
  | .clearFlags => .clearFlags c.data
  | .rsv5 => .rsv5 c.data
  | .rsv6 => .rsv6 c.data
  | .rsv7 => .rsv7 c.data

/-- The opcode table's row as a command of this hardware's width. -/
def Instr.command (i : Instr) : Command Config.W :=
  match i with
  | .nop d => ⟨.nop, d⟩
  | .sample d => ⟨.sample, d⟩
  | .setStep d => ⟨.setStep, d⟩
  | .clear d => ⟨.clear, d⟩
  | .clearFlags d => ⟨.clearFlags, d⟩
  | .rsv5 d => ⟨.rsv5, d⟩
  | .rsv6 d => ⟨.rsv6, d⟩
  | .rsv7 d => ⟨.rsv7, d⟩

/-- The decoder of this hardware. -/
def decode (c : CmdWord) : Instr := (decodeCommand c).instr

/-- The encoder of this hardware. -/
def encode (i : Instr) : CmdWord := encodeCommand i.command

/-- Why a row of bits is no command. -/
inductive DecodeError where
  /-- The number has a bit above `W + 2`, which no command word has (30_encoding.md R60, R66).
  Safe: no command is lost (log 7). -/
  | widerThanCommandWord
deriving DecidableEq, Repr

/-- The decoder on a number, at every width: the command word whose bits the number has, or a rejection
by name. -/
def decodeCommandBits (W n : Nat) : Except DecodeError (Command W) :=
  if isCommandWord W n then .ok (decodeCommand (BitVec.ofNat _ n)) else .error .widerThanCommandWord

/-- The decoder of this hardware on a number. -/
def decodeBits (n : Nat) : Except DecodeError Instr :=
  match decodeCommandBits Config.W n with
  | .ok c => .ok c.instr
  | .error e => .error e

/-- The number the host gives as the first `nbits` bits of a row: every bit above them is 0. -/
def tableBits (nbits w : Nat) : Nat := w % 2 ^ nbits

/-- The decoder's answer on a row of the opcode table, `none` where it rejects. -/
def decodeTableWord (nbits w : Nat) : Option Instr :=
  match decodeBits (tableBits nbits w) with
  | .ok i => some i
  | .error _ => none

end Sys2Proof
end

