-- ==== Sys2Proof/Machine/State.lean ====
section
/-!
DEFINITION. The machine's state as plain data: the eight registers of 10_state.md R20, and what the
host drives on the input ports at the coming edges. The block has no other state (R20, R21, R35), no
memory (20_memory.md R50), no fault and no refusal of its own (00_scope.md R14).
-/

namespace Sys2Proof.Machine

/-- The architected state of a block of width `W` (10_state.md R20): two words and six bits. -/
structure Regs (W : Nat) where
  /-- ACC, the current reference (R24). -/
  acc : BitVec W
  /-- STEP, the Step Size, 0 while unconfigured (R25). -/
  step : BitVec W
  /-- BIT_Q, the last emitted bit, true = UP (R26). -/
  bitQ : Bool
  /-- VALID_Q, the output strobe (R31). -/
  validQ : Bool
  /-- PARAM_ERR, sticky: an invalid Step Size was written (R28). -/
  paramErr : Bool
  /-- SAMPLE_REJ, sticky: a SAMPLE was refused (R29). -/
  sampleRej : Bool
  /-- ILL_CMD, sticky: a reserved opcode was received (R30). -/
  illCmd : Bool
  /-- SAT, sticky: the accumulator saturated (R32). -/
  sat : Bool
deriving DecidableEq, Repr

/-- What the input ports carry at one rising edge of `clk` (10_state.md R22). -/
structure Inputs (W : Nat) where
  /-- `rst`, synchronous reset, active high (70_reset_and_hazards.md R160). -/
  rst : Bool
  /-- `cmd_valid`: the two ports below carry a command (30_encoding.md R64). -/
  cmdValid : Bool
  /-- `cmd_op`, the opcode (30_encoding.md R61). -/
  cmdOp : BitVec 3
  /-- `cmd_data`, the operand (30_encoding.md R62). -/
  cmdData : BitVec W
deriving DecidableEq, Repr

/-- The machine of width `W` (00_scope.md R7): the block, and the host's coming input values. `inputs`
is the model's own field (DESIGN CHOICE, log 1): the head is what the ports carry at the next edge, and
past the end the host issues no command. -/
structure StateAt (W : Nat) where
  /-- The block's registers (10_state.md R20). -/
  regs : Regs W
  /-- What the host drives at the next edge and those after it (00_scope.md R16, R17). -/
  inputs : List (Inputs W)
deriving DecidableEq, Repr

/-- The machine of this hardware: the one of width `W = 16`, with no field of its own (log 3). -/
structure State extends StateAt Config.W
deriving DecidableEq, Repr

/-- The block has no fault (00_scope.md R14, 60_exceptions.md R140), so there is no constructor:
an error condition is a flag in the next state (R141), "never a fault of the machine" (R147). -/
inductive Fault where
deriving DecidableEq, Repr

/-- The block refuses nothing (00_scope.md R14). -/
inductive Refusal where
  /-- For an instruction that has no meaning in the model. Raised by no arm of exec: every command
  is modelled. It would be safe (no false claim about a run follows from a stop). -/
  | notModelled (mnemonic : String)
deriving DecidableEq, Repr

/-- `S_rst`, the reset state of the registers (10_state.md R37). -/
def Regs.reset (W : Nat) : Regs W where
  acc := 0
  step := 0
  bitQ := false
  validQ := false
  paramErr := false
  sampleRej := false
  illCmd := false
  sat := false

/-- The machine of width `W` right after the reset edge (10_state.md R37, 70_reset_and_hazards.md
R161): the registers at `S_rst`, and nothing driven yet, so that the block "waits for a command"
(20_memory.md R54; log 1). -/
def StateAt.reset (W : Nat) : StateAt W where
  regs := Regs.reset W
  inputs := []

/-- This hardware's machine right after the reset edge. -/
def State.reset : State where
  toStateAt := StateAt.reset Config.W

end Sys2Proof.Machine
end

