-- ==== Sys2Proof/Machine/Operands.lean ====
section
/-!
DEFINITION. How words are read as integers, compared, added and narrowed (00_scope.md R9 to R15,
40_datapath.md R81 to R86), for every width `W`. Arithmetic is on unbounded integers and is narrowed
once, after the clamp (R11).
-/

namespace Sys2Proof.Machine

/-- `sint(v)`, the two's complement value of a word (00_scope.md R11). -/
def sint {W : Nat} (v : BitVec W) : Int := v.toInt

/-- `word_W(i)`, the word whose `sint` is `i`, for `MIN <= i <= MAX` (00_scope.md R11). -/
def wordOf (W : Nat) (i : Int) : BitVec W := BitVec.ofInt W i

/-- `MIN`, the least value of a `W`-bit word (00_scope.md R9). -/
def minInt (W : Nat) : Int := -2 ^ (W - 1)

/-- `MAX`, the greatest value of a `W`-bit word (00_scope.md R9). -/
def maxInt (W : Nat) : Int := 2 ^ (W - 1) - 1

/-- `i` is the value of a word: it lies in `[MIN, MAX]`. -/
def inRange (W : Nat) (i : Int) : Bool := decide (minInt W ≤ i) && decide (i ≤ maxInt W)

/-- `clamp(i)` (00_scope.md R12, 40_datapath.md R85): the nearer bound outside `[MIN, MAX]`. -/
def clamp (W : Nat) (i : Int) : Int :=
  if maxInt W < i then maxInt W else if i < minInt W then minInt W else i

/-- The comparator (40_datapath.md R83): true is UP, the sample strictly greater than the reference,
both signed; false is DOWN, equality included. -/
def comparator {W : Nat} (data acc : BitVec W) : Bool := decide (sint acc < sint data)

/-- The unclamped result `t` of an accepted SAMPLE (40_datapath.md R81, R84): the reference plus the
step on UP, minus it on DOWN. -/
def unclamped {W : Nat} (up : Bool) (acc step : BitVec W) : Int :=
  if up then sint acc + sint step else sint acc - sint step

/-- The same in hardware terms (40_datapath.md R81): `sext_{W+1}(ACC) ± zext_{W+1}(STEP)` in `W+1`
bits. No step uses it; a statement says that it holds `t` exactly. -/
def adder {W : Nat} (up : Bool) (acc step : BitVec W) : BitVec (W + 1) :=
  if up then acc.signExtend (W + 1) + step.zeroExtend (W + 1)
  else acc.signExtend (W + 1) - step.zeroExtend (W + 1)

/-- `value(v) = sint(v) / 2^F`, the real number a word stands for (00_scope.md R15). Every such number
is rational. No step uses it (00_scope.md R8; log 4). -/
def value {W : Nat} (F : Nat) (v : BitVec W) : ℚ := (sint v : ℚ) / 2 ^ F

end Sys2Proof.Machine
end

