-- ==== Sys2Proof/Machine/Flags.lean ====
section
/-!
DEFINITION. The conditions a command tests, the error conditions with their codes, and the STATUS word
(10_state.md R27 to R34, 60_exceptions.md R141).
-/

namespace Sys2Proof.Machine

/-- READY, a function of the state: `(STEP != 0) and (PARAM_ERR = 0)` (10_state.md R33). -/
def Regs.ready {W : Nat} (r : Regs W) : Bool := !(r.step == 0) && !r.paramErr

/-- A SET_STEP operand is valid: `1 <= sint(data)` (41_control.md R102); `sint(data) <= MAX` holds of
every word. -/
def stepValid {W : Nat} (data : BitVec W) : Bool := decide (1 ≤ sint data)

/-- The update clamps: `clamp(t) != t` (40_datapath.md R81), which sets SAT (10_state.md R32). -/
def saturates (W : Nat) (t : Int) : Bool := !(clamp W t == t)

/-- The four error conditions (60_exceptions.md R141). -/
inductive ErrorCond where
  /-- PARAM_ERR: a SET_STEP operand with `sint <= 0` (41_control.md R103). -/
  | paramErr
  /-- SAMPLE_REJ: a SAMPLE while READY = 0 (40_datapath.md R82). -/
  | sampleRej
  /-- ILL_CMD: a reserved opcode (41_control.md R108). -/
  | illCmd
  /-- SAT: an update outside `[MIN, MAX]` (40_datapath.md R85). -/
  | sat
deriving DecidableEq, Repr

/-- A condition's code, its bit position in STATUS (60_exceptions.md R141). -/
def ErrorCond.code (c : ErrorCond) : Nat :=
  match c with
  | .paramErr => 1
  | .sampleRej => 2
  | .illCmd => 3
  | .sat => 4

/-- The sticky flag that records a condition (10_state.md R27). -/
def Regs.flag {W : Nat} (r : Regs W) (c : ErrorCond) : Bool :=
  match c with
  | .paramErr => r.paramErr
  | .sampleRej => r.sampleRej
  | .illCmd => r.illCmd
  | .sat => r.sat

/-- STATUS (10_state.md R34): bit 0 READY, bits 1 to 4 the sticky flags, bits 7:5 hardwired 0. -/
def Regs.statusWord {W : Nat} (r : Regs W) : BitVec 8 :=
  0#3 ++ BitVec.ofBool r.sat ++ BitVec.ofBool r.illCmd ++ BitVec.ofBool r.sampleRej
    ++ BitVec.ofBool r.paramErr ++ BitVec.ofBool r.ready

end Sys2Proof.Machine
end

