-- ==== Sys2Proof/Machine/Ports.lean ====
section
/-!
DEFINITION. The block's ports: what the input ports carry at an edge and the command they give
(10_state.md R22, 30_encoding.md R64), and the output ports (10_state.md R23).
-/

namespace Sys2Proof.Machine

/-- An edge at which the host issues nothing: `rst = 0` and `cmd_valid = 0`, the assembler's IDLE
(30_encoding.md R67). The other two ports may carry anything (R64); here they carry 0 (log 9). -/
def Inputs.idle (W : Nat) : Inputs W where
  rst := false
  cmdValid := false
  cmdOp := 0
  cmdData := 0

/-- An edge with `rst = 1`, the assembler's RESET (30_encoding.md R67). The other ports may carry
anything (70_reset_and_hazards.md R160); here they carry 0 (log 9). -/
def Inputs.reset (W : Nat) : Inputs W where
  rst := true
  cmdValid := false
  cmdOp := 0
  cmdData := 0

/-- An edge at which the host issues the command of an opcode and an operand. -/
def Inputs.issue {W : Nat} (op : BitVec 3) (data : BitVec W) : Inputs W where
  rst := false
  cmdValid := true
  cmdOp := op
  cmdData := data

/-- An edge at which the host issues a command. -/
def commandEdge {W : Nat} (c : Command W) : Inputs W := Inputs.issue c.opcode.bits c.data

/-- The same for a command of this hardware. -/
def issueEdge (i : Instr) : Inputs Config.W := commandEdge i.command

/-- The opcode the block performs: `cmd_op`, or NOP's where `cmd_valid = 0` (10_state.md R40,
30_encoding.md R64). -/
def Inputs.op {W : Nat} (i : Inputs W) : BitVec 3 := if i.cmdValid then i.cmdOp else 0b000#3

/-- The word of the command the block performs at an edge without reset (30_encoding.md R60, R64). -/
def Inputs.word {W : Nat} (i : Inputs W) : CmdWordOf W := i.op ++ i.cmdData

/-- The command of this hardware that the block performs at an edge without reset. -/
def Inputs.command (i : Inputs Config.W) : Instr := decode i.word

/-- What the input ports carry at the next edge: the head of what the host drives, and past its end
no command (log 1). -/
def StateAt.ports {W : Nat} (s : StateAt W) : Inputs W := s.inputs.headD (Inputs.idle W)

/-- The host moves on: what it drives at the edge after this one becomes the next. -/
def StateAt.advance {W : Nat} (s : StateAt W) : StateAt W := { s with inputs := s.inputs.tail }

/-- The host drives these values at the coming edges (00_scope.md R17: any values). -/
def StateAt.drive {W : Nat} (s : StateAt W) (is : List (Inputs W)) : StateAt W :=
  { s with inputs := is }

/-- The host drives these values at the next edge, in place of what it would have driven. -/
def StateAt.driveNext {W : Nat} (s : StateAt W) (i : Inputs W) : StateAt W :=
  { s with inputs := i :: s.inputs.tail }

/-- This hardware's input ports at the next edge. -/
def State.ports (s : State) : Inputs Config.W := s.toStateAt.ports

/-- This hardware's host moves on. -/
def State.advance (s : State) : State := ⟨s.toStateAt.advance⟩

/-- This hardware's host drives these values at the coming edges. -/
def State.drive (s : State) (is : List (Inputs Config.W)) : State := ⟨s.toStateAt.drive is⟩

/-- This hardware's host drives these values at the next edge. -/
def State.driveNext (s : State) (i : Inputs Config.W) : State := ⟨s.toStateAt.driveNext i⟩

/-- What the output ports show during a cycle (10_state.md R23). -/
structure Outputs (W : Nat) where
  /-- `bit_out`. -/
  bitOut : Bool
  /-- `out_valid`. -/
  outValid : Bool
  /-- `ref_out`. -/
  refOut : BitVec W
  /-- `step_out`. -/
  stepOut : BitVec W
  /-- `ready`. -/
  ready : Bool
  /-- `status`. -/
  status : BitVec 8
deriving DecidableEq, Repr

/-- The output ports, a function of the registers alone (10_state.md R23). -/
def Regs.outputs {W : Nat} (r : Regs W) : Outputs W where
  bitOut := r.bitQ
  outValid := r.validQ
  refOut := r.acc
  stepOut := r.step
  ready := r.ready
  status := r.statusWord

end Sys2Proof.Machine
end

