-- ==== Sys2Proof/Machine/Ops.lean ====
section
/-!
DEFINITION. The named operations on the registers, for every width `W`, that the commands are made of.
The block takes no exception (60_exceptions.md R140): its one form of error entry is `Regs.raise`
(R146), and its return is `Regs.clearSticky` (R147).
-/

namespace Sys2Proof.Machine

/-- Every command drops the output strobe; only an accepted SAMPLE sets it again (10_state.md R31). -/
def Regs.dropStrobe {W : Nat} (r : Regs W) : Regs W := { r with validQ := false }

/-- Error entry: the condition's flag becomes 1, and nothing else is saved or changed
(60_exceptions.md R141, R146). A flag already set stays set (R147). -/
def Regs.raise {W : Nat} (r : Regs W) (c : ErrorCond) : Regs W :=
  match c with
  | .paramErr => { r with paramErr := true }
  | .sampleRej => { r with sampleRej := true }
  | .illCmd => { r with illCmd := true }
  | .sat => { r with sat := true }

/-- The condition's flag becomes 1 where the test holds, and keeps its value otherwise. -/
def Regs.raiseIf {W : Nat} (r : Regs W) (b : Bool) (c : ErrorCond) : Regs W :=
  if b then r.raise c else r

/-- All four sticky flags become 0 (10_state.md R27, 41_control.md R106). -/
def Regs.clearSticky {W : Nat} (r : Regs W) : Regs W :=
  { r with paramErr := false, sampleRej := false, illCmd := false, sat := false }

/-- The current reference returns to the seed 0, and BIT_Q to 0 (41_control.md R104). -/
def Regs.seed {W : Nat} (r : Regs W) : Regs W := { r with acc := 0, bitQ := false }

/-- A valid Step Size is written, and PARAM_ERR is cleared with it (41_control.md R102). -/
def Regs.configure {W : Nat} (r : Regs W) (data : BitVec W) : Regs W :=
  { r with step := data, paramErr := false }

/-- An accepted SAMPLE's outputs: the bit, the updated reference and the strobe (40_datapath.md
R81). -/
def Regs.emit {W : Nat} (r : Regs W) (up : Bool) (acc : BitVec W) : Regs W :=
  { r with acc := acc, bitQ := up, validQ := true }

/-- The state with the registers a command leaves; the host's inputs are not the block's to change. -/
def StateAt.withRegs {W : Nat} (s : StateAt W) (r : Regs W) : StateAt W := { s with regs := r }

/-- The same on this hardware. -/
def State.withRegs (s : State) (r : Regs Config.W) : State := ⟨s.toStateAt.withRegs r⟩

/-- A command completes, at every width: the whole effect is in the next state (10_state.md R35,
R40). -/
def completeAt {W : Nat} (s : StateAt W) (r : Regs W) :
    Host.Outcome (StateAt W) Fault Refusal :=
  .next (s.withRegs r)

/-- A command completes on this hardware. -/
def complete (s : State) (r : Regs Config.W) : Host.Outcome State Fault Refusal :=
  .next (s.withRegs r)

/-- The reset edge: the registers become `S_rst` (70_reset_and_hazards.md R160). -/
def resetEdge (s : State) : Host.Outcome State Fault Refusal :=
  complete s (Regs.reset Config.W)

end Sys2Proof.Machine
end

