-- ==== Sys2Proof/Machine/Control.lean ====
section
/-!
DEFINITION. The control commands (41_control.md R100 to R108). NOP, CLEAR, CLEAR_FLAGS and the
reserved commands ignore their `data` field (30_encoding.md R62).
-/

namespace Sys2Proof.Machine

/-- NOP (41_control.md R100): the strobe drops, nothing else changes. -/
def Regs.nop {W : Nat} (r : Regs W) : Regs W := r.dropStrobe

/-- SET_STEP (41_control.md R102, R103): a valid operand is written; an invalid one is not kept, and
raises PARAM_ERR. -/
def Regs.setStep {W : Nat} (r : Regs W) (data : BitVec W) : Regs W :=
  if stepValid data then r.dropStrobe.configure data else r.dropStrobe.raise .paramErr

/-- CLEAR (41_control.md R104): a new frame; STEP and the flags are kept. -/
def Regs.clear {W : Nat} (r : Regs W) : Regs W := r.dropStrobe.seed

/-- CLEAR_FLAGS (41_control.md R106): ACC, STEP and BIT_Q are kept. -/
def Regs.clearFlags {W : Nat} (r : Regs W) : Regs W := r.dropStrobe.clearSticky

/-- A reserved command (41_control.md R108): only ILL_CMD is raised. -/
def Regs.reserved {W : Nat} (r : Regs W) : Regs W := r.dropStrobe.raise .illCmd

/-- NOP. -/
def execNop (_data : Word) (s : State) : Host.Outcome State Fault Refusal :=
  complete s s.regs.nop

/-- SET_STEP. -/
def execSetStep (data : Word) (s : State) : Host.Outcome State Fault Refusal :=
  complete s (s.regs.setStep data)

/-- CLEAR. -/
def execClear (_data : Word) (s : State) : Host.Outcome State Fault Refusal :=
  complete s s.regs.clear

/-- CLEAR_FLAGS. -/
def execClearFlags (_data : Word) (s : State) : Host.Outcome State Fault Refusal :=
  complete s s.regs.clearFlags

/-- RSV5. -/
def execRsv5 (_data : Word) (s : State) : Host.Outcome State Fault Refusal :=
  complete s s.regs.reserved

/-- RSV6. -/
def execRsv6 (_data : Word) (s : State) : Host.Outcome State Fault Refusal :=
  complete s s.regs.reserved

/-- RSV7. -/
def execRsv7 (_data : Word) (s : State) : Host.Outcome State Fault Refusal :=
  complete s s.regs.reserved

end Sys2Proof.Machine
end

