-- ==== Sys2Proof/Machine/Datapath.lean ====
section
/-!
DEFINITION. SAMPLE, the block's one data-path command (40_datapath.md R80 to R88).
-/

namespace Sys2Proof.Machine

/-- An accepted SAMPLE (40_datapath.md R81): compare, step, clamp, emit; SAT on a clamp. -/
def Regs.sampleAccepted {W : Nat} (r : Regs W) (data : BitVec W) : Regs W :=
  let up := comparator data r.acc
  let t := unclamped up r.acc r.step
  (r.emit up (wordOf W (clamp W t))).raiseIf (saturates W t) .sat

/-- A refused SAMPLE (40_datapath.md R82): only the flag; the operand is not used. -/
def Regs.sampleRefused {W : Nat} (r : Regs W) : Regs W := r.dropStrobe.raise .sampleRej

/-- SAMPLE (40_datapath.md R80): accepted where READY = 1 at the edge, refused otherwise. -/
def Regs.sample {W : Nat} (r : Regs W) (data : BitVec W) : Regs W :=
  if r.ready then r.sampleAccepted data else r.sampleRefused

/-- SAMPLE. -/
def execSample (data : Word) (s : State) : Host.Outcome State Fault Refusal :=
  complete s (s.regs.sample data)

end Sys2Proof.Machine
end

