-- ==== Sys2Proof/Machine/Dispatch.lean ====
section
/-! DEFINITION. One arm per command (10_state.md R40). -/

namespace Sys2Proof.Machine

def exec (i : Instr) (s : State) : Host.Outcome State Fault Refusal :=
  match i with
  | .nop data => Sys2Proof.Machine.execNop data s
  | .sample data => Sys2Proof.Machine.execSample data s
  | .setStep data => Sys2Proof.Machine.execSetStep data s
  | .clear data => Sys2Proof.Machine.execClear data s
  | .clearFlags data => Sys2Proof.Machine.execClearFlags data s
  | .rsv5 data => Sys2Proof.Machine.execRsv5 data s
  | .rsv6 data => Sys2Proof.Machine.execRsv6 data s
  | .rsv7 data => Sys2Proof.Machine.execRsv7 data s

end Sys2Proof.Machine
end

