-- ==== Sys2Proof/Machine/Step.lean ====
section
/-!
DEFINITION. One step is one rising edge of `clk` (00_scope.md R14, 10_state.md R40).
-/

namespace Sys2Proof.Machine

/-- One edge (10_state.md R40): reset wins over a command (60_exceptions.md R145); otherwise the block
performs the command on its ports. The host then moves on to what it drives next (log 1). -/
def step (s : State) : Host.Outcome State Fault Refusal :=
  if s.ports.rst then resetEdge s.advance else exec s.ports.command s.advance

/-- The state with the host issuing, at the next edge, the command whose bits are `w` (log 2). What it
drives at the edges after that one is unchanged; bits that are no command word change nothing. -/
def State.withFetchWord (s : State) (nbits w : Nat) : State :=
  match decodeTableWord nbits w with
  | some i => s.driveNext (issueEdge i)
  | none => s

end Sys2Proof.Machine
end

