-- ==== Sys2Proof/Machine/Transcriber.lean ====
section
/-!
DEFINITION. The assembler's lines and the pseudo-command ENCODE (30_encoding.md R67, R68): what the
host drives on the input ports for each, at every width `W` and with `F` fraction bits (00_scope.md R7,
R8). Machine/Assembler.lean reads their text.
-/

namespace Sys2Proof.Machine

/-- An operand as it is written (30_encoding.md R67). -/
inductive Operand (W : Nat) where
  /-- A hexadecimal word: the `W` bits of `data`. -/
  | hex (w : BitVec W)
  /-- A signed decimal integer `#i`. -/
  | int (i : Int)
  /-- A real, as the fraction `num / den` (log 10). -/
  | real (num : Int) (den : Nat)
deriving DecidableEq, Repr

/-- `word_W(i)` where `MIN <= i <= MAX`; no word otherwise (30_encoding.md R67). -/
def wordOf? (W : Nat) (i : Int) : Option (BitVec W) :=
  if inRange W i then some (wordOf W i) else none

/-- The operand's word, with `F` fraction bits. A real is taken as `word_W(r * 2^F)` only where
`r * 2^F` is an integer in range, and is otherwise refused: the transcriber does not round
(30_encoding.md R67). -/
def Operand.wordAt? {W : Nat} (F : Nat) (o : Operand W) : Option (BitVec W) :=
  match o with
  | .hex w => some w
  | .int i => wordOf? W i
  | .real num den =>
    if den ≠ 0 ∧ (num * 2 ^ F) % (den : Int) = 0 then wordOf? W (num * 2 ^ F / (den : Int))
    else none

/-- The operand's word on this hardware, where `F = 8` (00_scope.md R8). -/
def Operand.word? {W : Nat} (o : Operand W) : Option (BitVec W) := o.wordAt? Config.F

/-- A line of assembler text (30_encoding.md R67), or the pseudo-command ENCODE (R68). -/
inductive Line (W : Nat) where
  /-- `NOP`. -/
  | nop
  /-- `SAMPLE <operand>`. -/
  | sample (o : Operand W)
  /-- `SET_STEP <operand>`. -/
  | setStep (o : Operand W)
  /-- `CLEAR`. -/
  | clear
  /-- `CLEAR_FLAGS`. -/
  | clearFlags
  /-- `RSV5`, with `data` 0. -/
  | rsv5
  /-- `RSV6`, with `data` 0. -/
  | rsv6
  /-- `RSV7`, with `data` 0. -/
  | rsv7
  /-- `IDLE`: one edge with `cmd_valid = 0`. -/
  | idle
  /-- `RESET`: one edge with `rst = 1`. -/
  | reset
  /-- `ENCODE [s0, ..., s(n-1)], d`. -/
  | encode (samples : List (Operand W)) (d : Operand W)
deriving Repr

/-- The expansion of ENCODE (30_encoding.md R68): `n + 3` commands on consecutive edges. -/
def encodeFrame {W : Nat} (samples : List (BitVec W)) (d : BitVec W) : List (Inputs W) :=
  commandEdge ⟨.clear, 0⟩ :: commandEdge ⟨.clearFlags, 0⟩ :: commandEdge ⟨.setStep, d⟩
    :: samples.map fun s => commandEdge ⟨.sample, s⟩

/-- What the host drives for one line with `F` fraction bits, `none` where an operand is refused
(30_encoding.md R67, R68). -/
def Line.edgesAt? {W : Nat} (F : Nat) (l : Line W) : Option (List (Inputs W)) :=
  match l with
  | .nop => some [commandEdge ⟨.nop, 0⟩]
  | .sample o => (o.wordAt? F).map fun w => [commandEdge ⟨.sample, w⟩]
  | .setStep o => (o.wordAt? F).map fun w => [commandEdge ⟨.setStep, w⟩]
  | .clear => some [commandEdge ⟨.clear, 0⟩]
  | .clearFlags => some [commandEdge ⟨.clearFlags, 0⟩]
  | .rsv5 => some [commandEdge ⟨.rsv5, 0⟩]
  | .rsv6 => some [commandEdge ⟨.rsv6, 0⟩]
  | .rsv7 => some [commandEdge ⟨.rsv7, 0⟩]
  | .idle => some [Inputs.idle W]
  | .reset => some [Inputs.reset W]
  | .encode samples d =>
    match samples.mapM (Operand.wordAt? F), d.wordAt? F with
    | some ss, some w => some (encodeFrame ss w)
    | _, _ => none

/-- What the host drives for one line on this hardware, where `F = 8`. -/
def Line.edges? {W : Nat} (l : Line W) : Option (List (Inputs W)) := l.edgesAt? Config.F

/-- What the host drives for a text with `F` fraction bits: its lines, one after the other. -/
def transcribeAt {W : Nat} (F : Nat) (ls : List (Line W)) : Option (List (Inputs W)) :=
  (ls.mapM (Line.edgesAt? F)).map List.flatten

/-- What the host drives for a text on this hardware. -/
def transcribe (ls : List (Line Config.W)) : Option (List (Inputs Config.W)) :=
  transcribeAt Config.F ls

end Sys2Proof.Machine
end

