-- ==== Sys2Proof/Machine/Assembler.lean ====
section
/-!
DEFINITION. The text of the assembler's lines (30_encoding.md R67, R68): one command a line, `;` starts a
comment, mnemonics in upper case, an operand a hexadecimal word, a signed decimal after `#`, or a real.
A text is a list of characters. What the rule does not fix of the layout is the model's choice (log 12).
-/

namespace Sys2Proof.Machine

/-- The value of a digit in a base up to 16, in either case of letter. -/
def digit? (base : Nat) (c : Char) : Option Nat :=
  let n := c.toNat
  let d :=
    if 48 ≤ n ∧ n ≤ 57 then n - 48
    else if 65 ≤ n ∧ n ≤ 70 then n - 55
    else if 97 ≤ n ∧ n ≤ 102 then n - 87
    else base
  if d < base then some d else none

/-- The number that digits write after `acc`, most significant first. -/
def digitsFrom? (base acc : Nat) : List Char → Option Nat
  | [] => some acc
  | c :: cs =>
    match digit? base c with
    | some d => digitsFrom? base (acc * base + d) cs
    | none => none

/-- The number that one digit or more write. -/
def digits? (base : Nat) (cs : List Char) : Option Nat :=
  if cs.isEmpty then none else digitsFrom? base 0 cs

/-- A sign, if there is one, and what follows it. -/
def signed? {W : Nat} (read : List Char → Option (Operand W)) (negate : Operand W → Operand W)
    (cs : List Char) : Option (Operand W) :=
  match cs with
  | '-' :: rest => (read rest).map negate
  | _ => read cs

/-- The operand with the opposite sign; a hexadecimal word has none. -/
def Operand.negate {W : Nat} (o : Operand W) : Operand W :=
  match o with
  | .hex w => .hex w
  | .int i => .int (-i)
  | .real num den => .real (-num) den

/-- A decimal with or without a point, as an exact fraction: `0.875` is `875 / 1000`. -/
def readReal? {W : Nat} (cs : List Char) : Option (Operand W) :=
  let whole := cs.takeWhile (· != '.')
  match cs.dropWhile (· != '.') with
  | [] => (digits? 10 whole).map fun n => .real n 1
  | _ :: frac =>
    match digits? 10 whole, digits? 10 frac with
    | some n, some f => some (.real (n * 10 ^ frac.length + f : Nat) (10 ^ frac.length))
    | _, _ => none

/-- A decimal integer. -/
def readInt? {W : Nat} (cs : List Char) : Option (Operand W) := (digits? 10 cs).map fun n => .int n

/-- An operand's text (30_encoding.md R67): `0xNNNN`, `#i` or a real. -/
def readOperand? {W : Nat} (cs : List Char) : Option (Operand W) :=
  match cs with
  | '0' :: 'x' :: hs =>
    match digits? 16 hs with
    | some n => if n < 2 ^ W then some (.hex (BitVec.ofNat _ n)) else none
    | none => none
  | '#' :: rest => signed? readInt? Operand.negate rest
  | _ => signed? readReal? Operand.negate cs

/-- Puts a finished word, if any, before the tokens after it. -/
def pushWord (word : List Char) (rest : List (List Char)) : List (List Char) :=
  if word.isEmpty then rest else word.reverse :: rest

/-- The tokens of a line up to its comment: words, and each of `[`, `]` and `,` on its own. `word` holds
the current word backwards. -/
def tokensFrom (word : List Char) : List Char → List (List Char)
  | [] => pushWord word []
  | c :: cs =>
    if c = ';' then pushWord word []
    else if c = ' ' ∨ c = '\t' ∨ c = '\r' then pushWord word (tokensFrom [] cs)
    else if c = '[' ∨ c = ']' ∨ c = ',' then pushWord word ([c] :: tokensFrom [] cs)
    else tokensFrom (c :: word) cs

/-- ENCODE's operands after the opening bracket: samples with commas between them, the closing bracket,
a comma and the step (30_encoding.md R68). -/
def readEncode? {W : Nat} (samples : List (Operand W)) : List (List Char) → Option (Line W)
  | [[']'], [','], d] => (readOperand? d).map (.encode samples.reverse)
  | [','] :: t :: rest =>
    match samples, readOperand? t with
    | [], _ => none
    | _ :: _, some o => readEncode? (o :: samples) rest
    | _ :: _, none => none
  | t :: rest =>
    match samples, readOperand? t with
    | [], some o => readEncode? [o] rest
    | _, _ => none
  | [] => none

/-- A line's tokens as a line (30_encoding.md R67, R68): `some none` for an empty one, `none` for one
that is of no form the rule lists. -/
def readTokens? {W : Nat} (ts : List (List Char)) : Option (Option (Line W)) :=
  match ts with
  | [] => some none
  | ['N', 'O', 'P'] :: [] => some (some .nop)
  | ['S', 'A', 'M', 'P', 'L', 'E'] :: o :: [] => (readOperand? o).map fun o => some (.sample o)
  | ['S', 'E', 'T', '_', 'S', 'T', 'E', 'P'] :: o :: [] =>
    (readOperand? o).map fun o => some (.setStep o)
  | ['C', 'L', 'E', 'A', 'R'] :: [] => some (some .clear)
  | ['C', 'L', 'E', 'A', 'R', '_', 'F', 'L', 'A', 'G', 'S'] :: [] => some (some .clearFlags)
  | ['R', 'S', 'V', '5'] :: [] => some (some .rsv5)
  | ['R', 'S', 'V', '6'] :: [] => some (some .rsv6)
  | ['R', 'S', 'V', '7'] :: [] => some (some .rsv7)
  | ['I', 'D', 'L', 'E'] :: [] => some (some .idle)
  | ['R', 'E', 'S', 'E', 'T'] :: [] => some (some .reset)
  | ['E', 'N', 'C', 'O', 'D', 'E'] :: ['['] :: rest => (readEncode? [] rest).map some
  | _ => none

/-- The lines of a text. `line` holds the current one backwards. -/
def linesFrom (line : List Char) : List Char → List (List Char)
  | [] => [line.reverse]
  | c :: cs => if c = '\n' then line.reverse :: linesFrom [] cs else linesFrom (c :: line) cs

/-- A text as lines; `none` where a line is of no form the rule lists. -/
def readText? {W : Nat} (text : List Char) : Option (List (Line W)) :=
  ((linesFrom [] text).mapM fun l => readTokens? (tokensFrom [] l)).map fun ls => ls.filterMap id

/-- What the host drives for a text, at width `W` with `F` fraction bits (30_encoding.md R67). -/
def assembleAt (W F : Nat) (text : List Char) : Option (List (Inputs W)) :=
  (readText? text).bind (transcribeAt F)

/-- What the host drives for a text on this hardware. -/
def assemble (text : List Char) : Option (List (Inputs Config.W)) :=
  assembleAt Config.W Config.F text

end Sys2Proof.Machine
end

