-- ==== Sys2Proof/Machine/Block.lean ====
section
/-!
DEFINITION. The machine with its width `W` as an argument (00_scope.md R7): the step function of
10_state.md R40 as the spec writes it, on the registers alone, and the machine that decodes the word on
its ports and performs the command. Both are made of the command effects that exec is made of; the
statements say that the two agree at every width, and that `step`, `exec` and `core` are the machine at
`Config.W`.
-/

namespace Sys2Proof.Machine

/-- The `case op of` of 10_state.md R40, over the eight values of `op` (30_encoding.md R61). -/
def Regs.perform {W : Nat} (r : Regs W) (op : BitVec 3) (data : BitVec W) : Regs W :=
  if op = 0b000#3 then r.nop
  else if op = 0b001#3 then r.sample data
  else if op = 0b010#3 then r.setStep data
  else if op = 0b011#3 then r.clear
  else if op = 0b100#3 then r.clearFlags
  else r.reserved

/-- `Step(S, I)` (10_state.md R40). -/
def Regs.next {W : Nat} (r : Regs W) (i : Inputs W) : Regs W :=
  if i.rst then Regs.reset W else r.perform i.op i.cmdData

/-- A command's effect on the registers, at every width (30_encoding.md R61). -/
def Regs.effect {W : Nat} (r : Regs W) (c : Command W) : Regs W :=
  match c.opcode with
  | .nop => r.nop
  | .sample => r.sample c.data
  | .setStep => r.setStep c.data
  | .clear => r.clear
  | .clearFlags => r.clearFlags
  | .rsv5 => r.reserved
  | .rsv6 => r.reserved
  | .rsv7 => r.reserved

/-- The meaning of a command, at every width. -/
def execAt {W : Nat} (c : Command W) (s : StateAt W) : Host.Outcome (StateAt W) Fault Refusal :=
  completeAt s (s.regs.effect c)

/-- One edge of the machine of width `W` (10_state.md R40, 60_exceptions.md R145). -/
def stepAt {W : Nat} (s : StateAt W) : Host.Outcome (StateAt W) Fault Refusal :=
  if s.ports.rst then completeAt s.advance (Regs.reset W)
  else execAt (decodeCommand s.ports.word) s.advance

/-- The machine of width `W` (00_scope.md R7). -/
def coreAt (W : Nat) : Host.Core where
  State := StateAt W
  Fault := Fault
  Refusal := Refusal
  step := stepAt
  reset := StateAt.reset W

end Sys2Proof.Machine
end

