-- ==== Sys2Proof/Machine/Frame.lean ====
section
/-!
DEFINITION. Frames and the source's reference algorithms (42_frame.md R120 to R130): what a run's
output ports show, which of its SAMPLEs were accepted, and the encoder and decoder recurrences the
block is held to. None of it is hardware of the block.
-/

namespace Sys2Proof.Machine

/-- What the output ports show in the cycles after the next `n` edges, in order (10_state.md R23), of a
machine with this step and these ports. -/
def observeBy {σ : Type} {W : Nat} (next : σ → Host.Outcome σ Fault Refusal)
    (ports : σ → Outputs W) : Nat → σ → List (Outputs W)
  | 0, _ => []
  | n + 1, s =>
    match next s with
    | .next t => ports t :: observeBy next ports n t
    | .fault _ => []
    | .refused _ => []

/-- What the output ports of the machine of width `W` show after the next `n` edges. -/
def observeAt {W : Nat} (n : Nat) (s : StateAt W) : List (Outputs W) :=
  observeBy stepAt (fun t => t.regs.outputs) n s

/-- What the output ports of this hardware show after the next `n` edges. -/
def observe (n : Nat) (s : State) : List (Outputs Config.W) :=
  observeBy step (fun t => t.regs.outputs) n s

/-- The Bitstream (42_frame.md R120): `bit_out` in the cycles with `out_valid = 1`. -/
def bitstream {W : Nat} (os : List (Outputs W)) : List Bool :=
  (os.filter Outputs.outValid).map Outputs.bitOut

/-- The Reference Trace (42_frame.md R120): `ref_out` in the cycles with `out_valid = 1`. -/
def refTrace {W : Nat} (os : List (Outputs W)) : List (BitVec W) :=
  (os.filter Outputs.outValid).map Outputs.refOut

/-- The SAT bit of the `status` port (10_state.md R34). -/
def Outputs.satBit {W : Nat} (o : Outputs W) : Bool := o.status.getLsbD 4

/-- An edge that begins a frame: `rst = 1` or a CLEAR (42_frame.md R120). -/
def beginsFrame {W : Nat} (i : Inputs W) : Bool := i.rst || i.op == 0b011#3

/-- The edge's command is an accepted SAMPLE (40_datapath.md R80). -/
def Regs.accepts {W : Nat} (r : Regs W) (i : Inputs W) : Bool :=
  !i.rst && i.op == 0b001#3 && r.ready

/-- The accepted SAMPLEs of a sequence of edges, in order: each one's operand (42_frame.md R120), and
the STEP it was performed with (premise (a) of R120). -/
def Regs.accepted {W : Nat} (r : Regs W) : List (Inputs W) → List (BitVec W × BitVec W)
  | [] => []
  | i :: is =>
    if r.accepts i then (i.cmdData, r.step) :: (r.next i).accepted is else (r.next i).accepted is

/-- No accepted SAMPLE of a sequence of edges clamps: each one's unclamped result lies in
`[MIN, MAX]` (40_datapath.md R85). -/
def Regs.clampFree {W : Nat} (r : Regs W) : List (Inputs W) → Bool
  | [] => true
  | i :: is =>
    (!r.accepts i || inRange W (unclamped (comparator i.cmdData r.acc) r.acc r.step))
      && (r.next i).clampFree is

section Reference

variable {α : Type} [Zero α] [Add α] [Sub α] [Neg α] [LT α] [DecidableLT α]

/-- The loop of `encode_ref` (42_frame.md R125) from the reference `r`. -/
def encodeRefFrom (d : α) : α → List α → List Bool × List α
  | _, [] => ([], [])
  | r, s :: ss =>
    if r < s then
      (true :: (encodeRefFrom d (r + d) ss).1, (r + d) :: (encodeRefFrom d (r + d) ss).2)
    else
      (false :: (encodeRefFrom d (r - d) ss).1, (r - d) :: (encodeRefFrom d (r - d) ss).2)

/-- `encode_ref(samples, d)`, the source's encoder (42_frame.md R125), over the integers or over the
numbers the words stand for: the bits, and the trace without the seed. -/
def encodeRef (samples : List α) (d : α) : List Bool × List α := encodeRefFrom d 0 samples

/-- The loop of `decode_ref` (42_frame.md R124) from the reconstruction `c`. -/
def decodeRefFrom (d : α) : α → List Bool → List α
  | _, [] => []
  | c, b :: bs =>
    (c + if b then d else -d) :: decodeRefFrom d (c + if b then d else -d) bs

/-- `decode_ref(bits, d)`, the source's decoder recurrence (42_frame.md R124). -/
def decodeRef (bits : List Bool) (d : α) : List α := decodeRefFrom d 0 bits

end Reference

end Sys2Proof.Machine
end

