-- ==== Sys2Proof/Safety.lean ====
section
/-!
DEFINITION. What holds of the registers in every state a run reaches, and which command an edge
performs: the terms the statements use.
-/

namespace Sys2Proof.Machine

/-- The registers are as every run leaves them. The first clause is 10_state.md R25; the second and
the third are DEDUCED from R31 and R33, and from R24 to R26 and R32 (log 11). -/
structure Regs.Inv {W : Nat} (r : Regs W) : Prop where
  /-- "STEP never holds a negative value" (10_state.md R25). -/
  step_nonneg : 0 ≤ sint r.step
  /-- The strobe is up only after an accepted SAMPLE, which leaves READY = 1. -/
  strobe_ready : r.validQ = true → r.ready = true
  /-- No SAMPLE is accepted before the first valid SET_STEP. -/
  unconfigured_quiet : r.step = 0 → r.acc = 0 ∧ r.bitQ = false ∧ r.validQ = false ∧ r.sat = false

/-- The machine's registers meet `Regs.Inv`; the host's inputs may be anything. -/
def State.Inv (s : State) : Prop := s.regs.Inv

/-- At this edge the block performs a command with this opcode, issued by the host: `rst = 0`,
`cmd_valid = 1` and the opcode on `cmd_op` (10_state.md R40, 30_encoding.md R64). -/
def Inputs.performs {W : Nat} (i : Inputs W) (op : BitVec 3) : Bool :=
  !i.rst && i.cmdValid && i.cmdOp == op

end Sys2Proof.Machine
end

