-- ==== Sys2Proof/Certificates/Slice0/Obligations.lean ====
section
/-!
DEFINITION. The statements for the provers, from the numbered rules of spec/. The values the rules give
at `W = 16` stand in them as numbers (`MIN = -32768`, `MAX = 32767`), not as the model's functions.
-/

open Sys2Proof Sys2Proof.Machine

/-- The command word is the opcode in bits 18:16 and the operand in bits 15:0, and the ports carry
it with cmd_valid (R60). -/
def Obligations.CommandWordLayout : Prop :=
  (∀ c : CmdWord, (opField c).toNat = c.toNat / 0x10000 ∧ (dataField c).toNat = c.toNat % 0x10000) ∧
  (∀ data : Word,
    (encode (.nop data)).toNat = 0 * 0x10000 + data.toNat ∧
    (encode (.sample data)).toNat = 1 * 0x10000 + data.toNat ∧
    (encode (.setStep data)).toNat = 2 * 0x10000 + data.toNat ∧
    (encode (.clear data)).toNat = 3 * 0x10000 + data.toNat ∧
    (encode (.clearFlags data)).toNat = 4 * 0x10000 + data.toNat ∧
    (encode (.rsv5 data)).toNat = 5 * 0x10000 + data.toNat ∧
    (encode (.rsv6 data)).toNat = 6 * 0x10000 + data.toNat ∧
    (encode (.rsv7 data)).toNat = 7 * 0x10000 + data.toNat) ∧
  (encode (.sample 0x0100#16)).toNat = 0x10100 ∧
  (∀ s : State, s.ports.rst = false → s.ports.cmdValid = true →
    step s = exec (decode (s.ports.cmdOp ++ s.ports.cmdData)) s.advance)

/-- Each of the eight opcodes decodes to its own command, whatever the operand (R61). -/
def Obligations.OpcodeMapAsTabled : Prop :=
  ∀ data : Word,
    decode (0b000#3 ++ data) = .nop data ∧
    decode (0b001#3 ++ data) = .sample data ∧
    decode (0b010#3 ++ data) = .setStep data ∧
    decode (0b011#3 ++ data) = .clear data ∧
    decode (0b100#3 ++ data) = .clearFlags data ∧
    decode (0b101#3 ++ data) = .rsv5 data ∧
    decode (0b110#3 ++ data) = .rsv6 data ∧
    decode (0b111#3 ++ data) = .rsv7 data

/-- Decoding the encoding of any command gives the command back (30_encoding.md R60, 30_encoding.md
R61, 30_encoding.md R62). -/
def Obligations.DecodeEncodeRoundTrip : Prop :=
  ∀ i : Instr, i.wf = true →
    decode (encode i) = i ∧
    decodeBits (encode i).toNat = .ok i ∧
    decodeTableWord 24 (encode i).toNat = some i

/-- The model's choice (log 8): every command word is the encoding of exactly the command it decodes
to (30_encoding.md R65, 30_encoding.md R60). That each word comes back, and that different words
never decode to one command, holds because the model keeps the data field of NOP, CLEAR, CLEAR_FLAGS
and RSV5 to RSV7, which the block ignores: it is the model's choice (log 8). The spec says that each
word has one effect. -/
def Obligations.EncodeDecodeRoundTrip : Prop :=
  ∀ c : CmdWord, encode (decode c) = c ∧ (decode c).wf = true ∧
    ∀ c' : CmdWord, decode c = decode c' → c = c'

/-- The model's choice (log 7): a number with a bit above bit 18 is rejected by name, and every
other number decodes (30_encoding.md R60, 30_encoding.md R66). The spec gives no number wider than a
command word a meaning or a rejection: that the decoder rejects it is the model's choice (log 7). -/
def Obligations.WiderBitsRejected : Prop :=
  ∀ n : Nat,
    (2 ^ 19 ≤ n → decodeBits n = .error .widerThanCommandWord) ∧
    (n < 2 ^ 19 → decodeBits n = .ok (decode (BitVec.ofNat 19 n)))

/-- Words the spec writes out decode to the commands it gives beside them (95_test_vectors.md 2.3
and 3, 30_encoding.md R60). -/
def Obligations.WrittenWordsDecode : Prop :=
  decode 0x00000#19 = .nop 0x0000#16 ∧
  decode 0x10100#19 = .sample 0x0100#16 ∧
  decode 0x1FF00#19 = .sample 0xFF00#16 ∧
  decode 0x2FFFB#19 = .setStep 0xFFFB#16 ∧
  decode 0x30000#19 = .clear 0x0000#16 ∧
  decode 0x40000#19 = .clearFlags 0x0000#16 ∧
  decode 0x50000#19 = .rsv5 0x0000#16 ∧
  decode 0x6FFFF#19 = .rsv6 0xFFFF#16 ∧
  decode 0x71234#19 = .rsv7 0x1234#16

/-- A step with a command on the ports is exec of the decoded command, then the host's next inputs
(10_state.md R40, 30_encoding.md R64). -/
def Obligations.StepRunsDecodedCommand : Prop :=
  ∀ (s : State) (i : Instr), i.wf = true → s.ports.rst = false → s.ports.cmdValid = true →
    decode (s.ports.cmdOp ++ s.ports.cmdData) = i →
      step s = exec i { s with inputs := s.inputs.tail }

/-- cmd_valid = 0 performs NOP whatever the other ports hold, cmd_valid = 1 the command, and rst = 1
overrides both (R64). -/
def Obligations.CommandValidSelectsCommand : Prop :=
  ∀ (r : Regs 16) (is : List (Inputs 16)) (op : BitVec 3) (data : Word),
    step ⟨r, ⟨false, false, op, data⟩ :: is⟩ = .next ⟨{ r with validQ := false }, is⟩ ∧
    step ⟨r, ⟨false, true, op, data⟩ :: is⟩ = exec (decode (op ++ data)) ⟨r, is⟩ ∧
    ∀ valid : Bool, step ⟨r, ⟨true, valid, op, data⟩ :: is⟩ = .next ⟨Regs.reset 16, is⟩

/-- One edge with rst = 1 puts every register at its reset value, whatever the other ports hold, and
holding rst keeps it there (R160). -/
def Obligations.ResetEdgeWins : Prop :=
  (∀ s : State, s.ports.rst = true →
    step s = .next ⟨⟨0, 0, false, false, false, false, false, false⟩, s.inputs.tail⟩) ∧
  (∀ s : State, s.ports.rst = true → s.advance.ports.rst = true →
    Host.Core.run Sys2Proof.core 2 s =
      .next ⟨⟨0, 0, false, false, false, false, false, false⟩, s.inputs.tail.tail⟩) ∧
  (∀ (s : State) (data : Word), ∃ t u : State,
    exec (.clear data) s = .next t ∧ t.regs.step = s.regs.step ∧
    exec (.clearFlags data) s = .next u ∧ u.regs.acc = s.regs.acc)

/-- The model's choice (log 1): past the end of what the host drives, an edge carries no command
(30_encoding.md R64, 20_memory.md R54). The list of coming inputs and its end are the model's own
(log 1); that an edge without a command performs NOP is the spec's. -/
def Obligations.EmptyScheduleWaits : Prop :=
  (∀ s : State, s.inputs = [] → step s = .next { s with regs := { s.regs with validQ := false } }) ∧
  step State.reset = .next State.reset

/-- The reset state holds 0 in every register, the ports show it, and any edge with rst = 1 enters
it (R37). -/
def Obligations.ResetStateValues : Prop :=
  State.reset.regs = ⟨0, 0, false, false, false, false, false, false⟩ ∧
  State.reset.regs.outputs = ⟨false, false, 0, 0, false, 0x00#8⟩ ∧
  ∀ s : State, s.ports.rst = true →
    step s = .next ⟨State.reset.regs, s.inputs.tail⟩

/-- Every command completes in every state, and every edge has a next state: no fault and no refusal
(00_scope.md R14, 10_state.md R40, 60_exceptions.md R140). -/
def Obligations.StepIsTotal : Prop :=
  (∀ (i : Instr) (s : State), ∃ t : State, exec i s = .next t ∧ t.inputs = s.inputs) ∧
  (∀ s : State, ∃ t : State, step s = .next t ∧ t.inputs = s.inputs.tail)

/-- The machine's step, by decoding and dispatch, is the spec's Step(S, I) at W = 16 (10_state.md
R40, 00_scope.md R7). -/
def Obligations.StepIsSpecStep : Prop :=
  ∀ s : State, step s = .next ⟨s.regs.next s.ports, s.inputs.tail⟩

/-- NOP, or an edge with cmd_valid = 0, drops VALID_Q and changes nothing else; a SAMPLE after it
gives what it would have given (R100). -/
def Obligations.NopResult : Prop :=
  (∀ (data : Word) (s : State),
    exec (.nop data) s = .next { s with regs := { s.regs with validQ := false } }) ∧
  (∀ data : Word, decode (0b000#3 ++ data) = .nop data) ∧
  (∀ s : State, s.ports.rst = false → s.ports.cmdValid = false →
    step s = exec (.nop s.ports.cmdData) s.advance) ∧
  (∀ (data x : Word) (s : State), ∃ t : State,
    exec (.nop data) s = .next t ∧ exec (.sample x) t = exec (.sample x) s ∧
    t.regs.outputs.outValid = false ∧ t.regs.outputs.refOut = s.regs.outputs.refOut ∧
    t.regs.outputs.bitOut = s.regs.outputs.bitOut)

/-- An accepted SAMPLE compares, steps up or down, clamps, emits, sets SAT on a clamp, and changes
nothing else (R81). -/
def Obligations.SampleAcceptedResult : Prop :=
  ∀ (data : Word) (s : State), s.regs.ready = true →
    let a := sint s.regs.acc
    let d := sint s.regs.step
    let t : Int := if a < sint data then a + d else a - d
    let c : Int := max (-32768) (min 32767 t)
    exec (.sample data) s = .next { s with regs := { s.regs with
      acc := BitVec.ofInt 16 c
      bitQ := decide (a < sint data)
      validQ := true
      sat := s.regs.sat || decide (c ≠ t) } } ∧
    (s.Inv → 1 ≤ d ∧ -32768 - 32767 ≤ t ∧ t ≤ 32767 + 32767 ∧
      (adder (decide (a < sint data)) s.regs.acc s.regs.step).toInt = t)

/-- A SAMPLE with STEP = 0 or PARAM_ERR = 1 sets SAMPLE_REJ, drops VALID_Q and changes nothing else
(R82). -/
def Obligations.SampleRefusedResult : Prop :=
  (∀ (data : Word) (s : State), s.regs.step = 0 ∨ s.regs.paramErr = true →
    exec (.sample data) s =
      .next { s with regs := { s.regs with sampleRej := true, validQ := false } }) ∧
  (∃ t : State, exec (.sample 0x0100#16) State.reset = .next t ∧
    t.regs.acc = 0x0000#16 ∧ t.regs.validQ = false ∧ t.regs.sampleRej = true)

/-- The emitted bit is UP exactly when the sample is strictly greater than the reference, as signed
integers and as the rationals the words stand for (R83). The last clause, on the numbers the words
stand for, is no part of R83: that they are taken as rationals is the model's choice (log 14). -/
def Obligations.SampleBitIsStrictSignedCompare : Prop :=
  ∀ (data : Word) (s : State), s.regs.ready = true →
    ∃ t : State, exec (.sample data) s = .next t ∧
      (t.regs.bitQ = true ↔ sint data > sint s.regs.acc) ∧
      (t.regs.bitQ = false ↔ sint data ≤ sint s.regs.acc) ∧
      ∀ F : Nat, (t.regs.bitQ = true ↔ value F data > value F s.regs.acc)

/-- The reference moves by exactly the step in the direction of the bit, or stops at the nearer
bound with SAT; it never wraps (R84, R85). -/
def Obligations.SampleStepsOrSaturates : Prop :=
  ∀ (data : Word) (s : State), s.regs.ready = true →
    ∃ t : State, exec (.sample data) s = .next t ∧
      t.regs.outputs.refOut = t.regs.acc ∧ t.regs.step = s.regs.step ∧
      let u : Int := if t.regs.bitQ = true then sint s.regs.acc + sint s.regs.step
        else sint s.regs.acc - sint s.regs.step
      (-32768 ≤ u → u ≤ 32767 → sint t.regs.acc = u ∧ t.regs.sat = s.regs.sat) ∧
      (32767 < u → sint t.regs.acc = 32767 ∧ t.regs.sat = true) ∧
      (u < -32768 → sint t.regs.acc = -32768 ∧ t.regs.sat = true)

/-- SET_STEP with 1 <= sint(data) writes STEP, clears PARAM_ERR, drops VALID_Q and changes nothing
else (R102). -/
def Obligations.SetStepValidResult : Prop :=
  (∀ (data : Word) (s : State), 1 ≤ sint data →
    exec (.setStep data) s = .next { s with regs := { s.regs with
      step := data
      paramErr := false
      validQ := false } }) ∧
  (∀ data : Word, (1 ≤ sint data ↔ data.getLsbD 15 = false ∧ data ≠ 0) ∧ sint data ≤ 32767) ∧
  (∀ (data x : Word) (s : State), 1 ≤ sint data → ∃ t u : State,
    exec (.setStep data) s = .next t ∧ t.regs.ready = true ∧
    exec (.setStep data) t = .next t ∧
    exec (.sample x) t = .next u ∧ u.regs.validQ = true ∧
    sint u.regs.acc = max (-32768) (min 32767
      (if sint s.regs.acc < sint x then sint s.regs.acc + sint data
        else sint s.regs.acc - sint data))) ∧
  (∀ data : Word, decode (0b010#3 ++ data) = .setStep data) ∧
  1 ≤ sint 0x7FFF#16 ∧ 1 ≤ sint 0x0001#16 ∧
  (∃ t : State, exec (.setStep 0x0080#16) State.reset = .next t ∧
    t.regs.step = 0x0080#16 ∧ t.regs.ready = true)

/-- SET_STEP with sint(data) <= 0 sets PARAM_ERR, keeps the old STEP, and every SAMPLE is refused
until the flag is cleared (R103). -/
def Obligations.SetStepInvalidResult : Prop :=
  (∀ (data : Word) (s : State), sint data ≤ 0 →
    exec (.setStep data) s =
      .next { s with regs := { s.regs with paramErr := true, validQ := false } }) ∧
  (∀ (x : Word) (s : State), s.regs.paramErr = true →
    s.regs.ready = false ∧
    exec (.sample x) s =
      .next { s with regs := { s.regs with sampleRej := true, validQ := false } }) ∧
  (∀ (x : Word) (s : State), 1 ≤ sint x → ∃ t : State,
    exec (.setStep x) s = .next t ∧ t.regs.paramErr = false) ∧
  (∀ (x : Word) (s : State), ∃ t : State,
    exec (.clearFlags x) s = .next t ∧ t.regs.paramErr = false) ∧
  (∀ s : State, s.ports.rst = true → ∃ t : State, step s = .next t ∧ t.regs.paramErr = false) ∧
  sint 0x0000#16 ≤ 0 ∧ (∀ data : Word, data.getLsbD 15 = true → sint data ≤ 0) ∧
  (0x8000#16).getLsbD 15 = true ∧
  (∀ s : State, s.regs.step = 0x0080#16 → ∃ t : State, exec (.setStep 0x0000#16) s = .next t ∧
    t.regs.step = 0x0080#16 ∧ t.regs.paramErr = true ∧ t.regs.ready = false)

/-- CLEAR returns ACC and BIT_Q to 0, drops VALID_Q, and keeps STEP and the flags (R104). -/
def Obligations.ClearResult : Prop :=
  ∀ (data x : Word) (s : State), ∃ t : State,
    decode (0b011#3 ++ data) = .clear data ∧ exec (.clear data) s = .next t ∧
    t = { s with regs := { s.regs with acc := 0, bitQ := false, validQ := false } } ∧
    t.regs.outputs.refOut = 0x0000#16 ∧
    exec (.clear x) t = .next t

/-- CLEAR_FLAGS clears the four sticky flags, drops VALID_Q, and keeps ACC, STEP and BIT_Q; READY
then follows STEP (R106). -/
def Obligations.ClearFlagsResult : Prop :=
  (∀ data : Word, decode (0b100#3 ++ data) = .clearFlags data) ∧
  (∀ (data : Word) (s : State), exec (.clearFlags data) s = .next { s with regs := { s.regs with
      paramErr := false
      sampleRej := false
      illCmd := false
      sat := false
      validQ := false } }) ∧
  (∀ (data x : Word) (s : State), s.regs.step ≠ 0 → ∃ t u : State,
    exec (.clearFlags data) s = .next t ∧ t.regs.ready = true ∧ t.regs.outputs.status = 0x01#8 ∧
    exec (.sample x) t = .next u ∧ u.regs.validQ = true ∧ u.regs.step = s.regs.step) ∧
  (∀ (data : Word) (s : State), s.regs.step = 0 → ∃ t : State,
    exec (.clearFlags data) s = .next t ∧ t.regs.ready = false ∧ t.regs.outputs.status = 0x00#8)

/-- RSV5, RSV6 and RSV7 set ILL_CMD, drop VALID_Q and change nothing else; the next SAMPLE gives
what it gives after a NOP (R108). -/
def Obligations.ReservedResult : Prop :=
  (∀ data : Word, decode (0b101#3 ++ data) = .rsv5 data ∧ decode (0b110#3 ++ data) = .rsv6 data ∧
    decode (0b111#3 ++ data) = .rsv7 data) ∧
  (∀ (i : Instr) (data x : Word) (s : State),
    i = .rsv5 data ∨ i = .rsv6 data ∨ i = .rsv7 data → ∃ t u v : State,
      exec i s = .next t ∧
      t = { s with regs := { s.regs with illCmd := true, validQ := false } } ∧
      t.regs.outputs.status = s.regs.outputs.status ||| 0x08#8 ∧
      exec (.nop 0) s = .next u ∧ exec (.sample x) u = .next v ∧
      exec (.sample x) t = .next { v with regs := { v.regs with illCmd := true } })

/-- READY is 1 exactly when STEP is not 0 and PARAM_ERR is 0; a strobe after an edge needs it; it is
0 after reset (R33). -/
def Obligations.ReadyIsStepAndNoParamErr : Prop :=
  (∀ r : Regs 16, r.ready = true ↔ r.step ≠ 0 ∧ r.paramErr = false) ∧
  (∀ s t : State, step s = .next t → t.regs.validQ = true → s.regs.ready = true) ∧
  State.reset.regs.ready = false

/-- STATUS is READY, PARAM_ERR, SAMPLE_REJ, ILL_CMD, SAT in bits 0 to 4, and 0 in bits 7:5; it is
0x00 after reset (R34). -/
def Obligations.StatusWordLayout : Prop :=
  (∀ r : Regs 16,
    r.outputs.status.getLsbD 0 = r.ready ∧
    r.outputs.status.getLsbD 1 = r.paramErr ∧
    r.outputs.status.getLsbD 2 = r.sampleRej ∧
    r.outputs.status.getLsbD 3 = r.illCmd ∧
    r.outputs.status.getLsbD 4 = r.sat ∧
    r.outputs.status.getLsbD 5 = false ∧
    r.outputs.status.getLsbD 6 = false ∧
    r.outputs.status.getLsbD 7 = false ∧
    ∀ c : ErrorCond, r.outputs.status.getLsbD c.code = r.flag c) ∧
  State.reset.regs.outputs.status = 0x00#8

/-- In the cycle after an edge the six output ports show the registers that edge computed (R23). -/
def Obligations.PortsShowNextState : Prop :=
  ∀ s : State, ∃ t : State, step s = .next t ∧
    observe 1 s = [⟨t.regs.bitQ, t.regs.validQ, t.regs.acc, t.regs.step, t.regs.ready,
      t.regs.statusWord⟩]

/-- Each sticky flag is set by its own event only and cleared only by CLEAR_FLAGS, reset, or
(PARAM_ERR) a valid SET_STEP (R27). -/
def Obligations.StickyFlagsSetAndCleared : Prop :=
  (∀ s t : State, step s = .next t →
    let i := s.ports
    let a := sint s.regs.acc
    let d := sint s.regs.step
    let u : Int := if a < sint i.cmdData then a + d else a - d
    (t.regs.paramErr = true ↔ i.rst = false ∧
      ((i.performs 0b010#3 = true ∧ sint i.cmdData ≤ 0) ∨
        (s.regs.paramErr = true ∧ i.performs 0b100#3 = false ∧
          ¬ (i.performs 0b010#3 = true ∧ 1 ≤ sint i.cmdData)))) ∧
    (t.regs.sampleRej = true ↔ i.rst = false ∧
      ((i.performs 0b001#3 = true ∧ s.regs.ready = false) ∨
        (s.regs.sampleRej = true ∧ i.performs 0b100#3 = false))) ∧
    (t.regs.illCmd = true ↔ i.rst = false ∧
      ((i.performs 0b101#3 = true ∨ i.performs 0b110#3 = true ∨ i.performs 0b111#3 = true) ∨
        (s.regs.illCmd = true ∧ i.performs 0b100#3 = false))) ∧
    (t.regs.sat = true ↔ i.rst = false ∧
      ((i.performs 0b001#3 = true ∧ s.regs.ready = true ∧ ¬ (-32768 ≤ u ∧ u ≤ 32767)) ∨
        (s.regs.sat = true ∧ i.performs 0b100#3 = false)))) ∧
  (∀ (s t t' : State) (rej ill sat : Bool), step s = .next t →
    step { s with regs := { s.regs with sampleRej := rej, illCmd := ill, sat := sat } } = .next t' →
    t'.regs.acc = t.regs.acc ∧ t'.regs.step = t.regs.step ∧ t'.regs.bitQ = t.regs.bitQ ∧
      t'.regs.validQ = t.regs.validQ ∧ t'.regs.paramErr = t.regs.paramErr)

/-- An edge raises at most one of the four error conditions (60_exceptions.md R145, 60_exceptions.md
R141). -/
def Obligations.AtMostOneErrorPerEdge : Prop :=
  ∀ (s t : State) (c c' : ErrorCond), step s = .next t →
    s.regs.flag c = false → t.regs.flag c = true →
    s.regs.flag c' = false → t.regs.flag c' = true → c = c'

/-- VALID_Q is 1 after an edge exactly when the edge performed a SAMPLE with READY = 1 (R31). -/
def Obligations.StrobeIffAcceptedSample : Prop :=
  ∀ s : State, ∃ t : State, step s = .next t ∧
    (t.regs.validQ = true ↔ s.ports.performs 0b001#3 = true ∧ s.regs.ready = true)

/-- ACC is 0 after CLEAR and reset, the clamped update after an accepted SAMPLE, unchanged
otherwise, and any value is legal (R24). -/
def Obligations.AccWrittenOnlyBySampleClearReset : Prop :=
  ∀ s t : State, step s = .next t →
    (s.ports.rst = true → t.regs.acc = 0) ∧
    (s.ports.performs 0b011#3 = true → t.regs.acc = 0) ∧
    (s.ports.performs 0b001#3 = true → s.regs.ready = true →
      sint t.regs.acc = max (-32768) (min 32767
        (if sint s.regs.acc < sint s.ports.cmdData then sint s.regs.acc + sint s.regs.step
          else sint s.regs.acc - sint s.regs.step))) ∧
    (s.ports.rst = false → s.ports.performs 0b011#3 = false →
      (s.ports.performs 0b001#3 && s.regs.ready) = false → t.regs.acc = s.regs.acc) ∧
    t.regs.outputs.refOut = t.regs.acc ∧ -32768 ≤ sint t.regs.acc ∧ sint t.regs.acc ≤ 32767

/-- STEP is written by a valid SET_STEP and by reset only; it is 0 only from reset on, and never
negative (R25). -/
def Obligations.StepWrittenOnlyBySetStepReset : Prop :=
  ∀ s t : State, step s = .next t →
    (s.ports.rst = true → t.regs.step = 0) ∧
    (s.ports.performs 0b010#3 = true → 1 ≤ sint s.ports.cmdData →
      t.regs.step = s.ports.cmdData) ∧
    (s.ports.rst = false → ¬ (s.ports.performs 0b010#3 = true ∧ 1 ≤ sint s.ports.cmdData) →
      t.regs.step = s.regs.step) ∧
    (t.regs.step = 0 → s.ports.rst = true ∨ s.regs.step = 0) ∧
    (0 ≤ sint s.regs.step → 0 ≤ sint t.regs.step ∧ sint t.regs.step ≤ 32767) ∧
    t.regs.outputs.stepOut = t.regs.step

/-- BIT_Q is the last accepted SAMPLE's bit, 0 after CLEAR and reset, and held otherwise (R26). -/
def Obligations.BitHeldBetweenSamples : Prop :=
  ∀ s t : State, step s = .next t →
    (s.ports.rst = true → t.regs.bitQ = false) ∧
    (s.ports.performs 0b011#3 = true → t.regs.bitQ = false) ∧
    (s.ports.performs 0b001#3 = true → s.regs.ready = true →
      (t.regs.bitQ = true ↔ sint s.regs.acc < sint s.ports.cmdData)) ∧
    (s.ports.rst = false → s.ports.performs 0b011#3 = false →
      (s.ports.performs 0b001#3 && s.regs.ready) = false → t.regs.bitQ = s.regs.bitQ)

/-- The reset state meets the invariant of the registers (10_state.md R25, 10_state.md R37). Two of
the three clauses of `Inv` are the model's inference from the spec's rules (log 11). -/
def Obligations.ResetMeetsInvariant : Prop :=
  State.reset.Inv

/-- Every step keeps the invariant of the registers, whatever the host drives (10_state.md R25,
10_state.md R31, 10_state.md R33, 10_state.md R24, 10_state.md R32). Two of the three clauses of
`Inv` are the model's inference from the spec's rules (log 11). -/
def Obligations.StepKeepsInvariant : Prop :=
  ∀ s : State, s.Inv → ∃ t : State, step s = .next t ∧ t.Inv

/-- SET_STEP with one operand, CLEAR, CLEAR_FLAGS and NOP done twice are as done once; SAMPLE is not
(20_memory.md R53). -/
def Obligations.ConfigurationCommandsIdempotent : Prop :=
  (∀ (i : Instr) (data : Word) (s : State),
    i = .setStep data ∨ i = .clear data ∨ i = .clearFlags data ∨ i = .nop data →
      ∃ t : State, exec i s = .next t ∧ exec i t = .next t) ∧
  (∃ (data : Word) (s t : State), exec (.sample data) s = .next t ∧ exec (.sample data) t ≠ .next t)

/-- Back to back, a SAMPLE sees the SET_STEP, SAMPLE, CLEAR or CLEAR_FLAGS of the edge before it
(70_reset_and_hazards.md R171, 20_memory.md R56). -/
def Obligations.NextEdgeSeesEffect : Prop :=
  (∀ (s : State) (d x : Word), 1 ≤ sint d → ∃ t : State,
    Host.Core.run Sys2Proof.core 2 (s.drive [issueEdge (.setStep d), issueEdge (.sample x)]) = .next t ∧
    t.regs.validQ = true ∧ sint t.regs.acc = max (-32768) (min 32767
      (if sint s.regs.acc < sint x then sint s.regs.acc + sint d else sint s.regs.acc - sint d))) ∧
  (∀ (s : State) (x y : Word), s.regs.ready = true → ∃ m t : State,
    exec (.sample x) s = .next m ∧
    Host.Core.run Sys2Proof.core 2 (s.drive [issueEdge (.sample x), issueEdge (.sample y)]) = .next t ∧
    t.regs.validQ = true ∧ (t.regs.bitQ = true ↔ sint m.regs.acc < sint y)) ∧
  (∀ (s : State) (x : Word), s.regs.ready = true → ∃ t : State,
    Host.Core.run Sys2Proof.core 2 (s.drive [issueEdge (.clear 0), issueEdge (.sample x)]) = .next t ∧
    t.regs.validQ = true ∧ (t.regs.bitQ = true ↔ 0 < sint x)) ∧
  (∀ (s : State) (x : Word), s.regs.step ≠ 0 → ∃ t : State,
    Host.Core.run Sys2Proof.core 2 (s.drive [issueEdge (.clearFlags 0), issueEdge (.sample x)]) = .next t ∧
    t.regs.validQ = true)

/-- At every width, sint is the two's complement value, it spans MIN to MAX, and word_W is its
inverse there (00_scope.md R11, 00_scope.md R9). -/
def Obligations.SintIsTwosComplement : Prop :=
  (∀ (W : Nat), 2 ≤ W →
    (∀ v : BitVec W,
      sint v = (if v.getLsbD (W - 1) = true then (v.toNat : Int) - 2 ^ W else (v.toNat : Int)) ∧
      minInt W ≤ sint v ∧ sint v ≤ maxInt W) ∧
    (∀ i : Int, minInt W ≤ i → i ≤ maxInt W → sint (wordOf W i) = i)) ∧
  minInt 16 = -32768 ∧ maxInt 16 = 32767

/-- At every width, the W+1-bit adder of the hardware form holds the unclamped result exactly
(40_datapath.md R81, 40_datapath.md R86). -/
def Obligations.AdderHoldsExactResult : Prop :=
  ∀ (W : Nat) (up : Bool) (acc step : BitVec W), 2 ≤ W → 0 ≤ sint step →
    (adder up acc step).toInt = (if up = true then sint acc + sint step else sint acc - sint step)

/-- At every width, an accepted SAMPLE moves the reference by the step or to the nearer bound, and
SAT records the clamp (00_scope.md R7, 40_datapath.md R81, 40_datapath.md R85). -/
def Obligations.SampleAtEveryWidth : Prop :=
  ∀ (W : Nat) (r : Regs W) (data : BitVec W), 2 ≤ W → r.ready = true →
    let t : Int := if sint r.acc < sint data then sint r.acc + sint r.step
      else sint r.acc - sint r.step
    let r' := r.next (Inputs.issue 0b001#3 data)
    (r'.bitQ = true ↔ sint r.acc < sint data) ∧ r'.validQ = true ∧
    sint r'.acc = max (-2 ^ (W - 1)) (min (2 ^ (W - 1) - 1) t) ∧
    (r'.sat = true ↔ r.sat = true ∨ t < -2 ^ (W - 1) ∨ 2 ^ (W - 1) - 1 < t) ∧
    r'.step = r.step ∧ r'.paramErr = r.paramErr ∧ r'.sampleRej = r.sampleRej ∧
    r'.illCmd = r.illCmd

/-- Words compare and add as the numbers they stand for, taken as rationals (log 14), whatever F
(00_scope.md R15, 00_scope.md R8). The spec says it of real numbers; that the numbers are taken in
the rationals, which hold every word's number, is the model's choice (log 14). -/
def Obligations.FixedPointReadingIsExact : Prop :=
  ∀ (W F : Nat) (a b : BitVec W),
    (value F a > value F b ↔ sint a > sint b) ∧
    value F a + value F b = ((sint a + sint b : Int) : ℚ) / 2 ^ F ∧
    value F a - value F b = ((sint a - sint b : Int) : ℚ) / 2 ^ F ∧
    value F a * 2 ^ F = (sint a : ℚ)

/-- An accepted SAMPLE moves the reference by exactly the step; a clamped one by less, and SAT
records it (42_frame.md R128). -/
def Obligations.ReferenceMovesByExactlyTheStep : Prop :=
  ∀ (data : Word) (s : State), s.Inv → s.regs.ready = true →
    ∃ t : State, exec (.sample data) s = .next t ∧
      let u : Int := if t.regs.bitQ = true then sint s.regs.acc + sint s.regs.step
        else sint s.regs.acc - sint s.regs.step
      let moved : Int := (sint t.regs.acc - sint s.regs.acc).natAbs
      (-32768 ≤ u ∧ u ≤ 32767 →
        sint t.regs.acc = u ∧ moved = sint s.regs.step ∧ t.regs.sat = s.regs.sat) ∧
      (¬ (-32768 ≤ u ∧ u ≤ 32767) → moved < sint s.regs.step ∧ t.regs.sat = true)

/-- A sample equal to the reference gives DOWN, and the reference moves down by the step or clamps
to MIN (R129). -/
def Obligations.TieGivesDown : Prop :=
  ∀ (data : Word) (s : State), s.Inv → s.regs.ready = true → sint data = sint s.regs.acc →
    ∃ t : State, exec (.sample data) s = .next t ∧ t.regs.bitQ = false ∧
      sint t.regs.acc = (if sint s.regs.acc - sint s.regs.step < -32768 then -32768
        else sint s.regs.acc - sint s.regs.step)

/-- At MAX every sample gives DOWN without a clamp; at MIN every sample but MIN gives UP, and MIN
clamps; the sample MIN always gives DOWN (40_datapath.md R87). -/
def Obligations.CornersOfSampleAtTheBounds : Prop :=
  ∀ (data : Word) (s : State), s.Inv → s.regs.ready = true →
    ∃ t : State, exec (.sample data) s = .next t ∧
      (sint s.regs.acc = 32767 →
        t.regs.bitQ = false ∧ sint t.regs.acc = 32767 - sint s.regs.step ∧ t.regs.sat = s.regs.sat) ∧
      (sint s.regs.acc = -32768 → sint data ≠ -32768 →
        t.regs.bitQ = true ∧ sint t.regs.acc = -32768 + sint s.regs.step ∧
          t.regs.sat = s.regs.sat) ∧
      (sint s.regs.acc = -32768 → sint data = -32768 →
        t.regs.bitQ = false ∧ sint t.regs.acc = -32768 ∧ t.regs.sat = true) ∧
      (data = 0x8000#16 → t.regs.bitQ = false) ∧
      (t.regs.bitQ = true → sint s.regs.acc + sint s.regs.step = 32767 →
        sint t.regs.acc = 32767 ∧ t.regs.sat = s.regs.sat) ∧
      (t.regs.bitQ = false → sint s.regs.acc - sint s.regs.step = -32768 →
        sint t.regs.acc = -32768 ∧ t.regs.sat = s.regs.sat)

/-- The outputs of any frame without a clamp are those of the source's encoder, as integers and as
the rational values of the words (42_frame.md R126, 42_frame.md R120, 42_frame.md R125). That the
source's real numbers are taken in the rationals is the model's choice (log 14). -/
def Obligations.FrameIsReferenceEncoder : Prop :=
  ∀ (s : State) (start : Inputs 16) (body : List (Inputs 16)) (d : Word),
    beginsFrame start = true → (∀ i ∈ body, beginsFrame i = false) →
    (∀ p ∈ (s.regs.next start).accepted body, p.2 = d) →
    let os := observe (body.length + 1) (s.drive (start :: body))
    ((s.regs.next start).clampFree body = true ∨
      (∀ o ∈ os, o.outValid = true → o.satBit = false) ∨
      ((∀ i ∈ body, i.performs 0b100#3 = false) ∧ ∀ o ∈ os.getLast?, o.satBit = false)) →
    let samples := ((s.regs.next start).accepted body).map Prod.fst
    bitstream os = (encodeRef (samples.map sint) (sint d)).1 ∧
    (refTrace os).map sint = (encodeRef (samples.map sint) (sint d)).2 ∧
    ∀ F : Nat,
      bitstream os = (encodeRef (samples.map (value F)) (value F d)).1 ∧
      (refTrace os).map (value F) = (encodeRef (samples.map (value F)) (value F d)).2

/-- The decoder recurrence on a frame's emitted bits gives the frame's trace, where no clamp acted
(42_frame.md R127, 42_frame.md R124). -/
def Obligations.FrameTraceIsDecoderRecurrence : Prop :=
  ∀ (s : State) (start : Inputs 16) (body : List (Inputs 16)) (d : Word),
    beginsFrame start = true → (∀ i ∈ body, beginsFrame i = false) →
    (∀ p ∈ (s.regs.next start).accepted body, p.2 = d) →
    let os := observe (body.length + 1) (s.drive (start :: body))
    ((s.regs.next start).clampFree body = true ∨
      (∀ o ∈ os, o.outValid = true → o.satBit = false) ∨
      ((∀ i ∈ body, i.performs 0b100#3 = false) ∧ ∀ o ∈ os.getLast?, o.satBit = false)) →
    (refTrace os).map sint = decodeRef (bitstream os) (sint d)

/-- Any sequence of edges gives exactly one bit and one trace value per accepted SAMPLE (42_frame.md
R121, 10_state.md R31). -/
def Obligations.OneOutputPerAcceptedSample : Prop :=
  ∀ (s : State) (is : List (Inputs 16)),
    let os := observe is.length (s.drive is)
    os.length = is.length ∧
    (bitstream os).length = (s.regs.accepted is).length ∧
    (refTrace os).length = (s.regs.accepted is).length

/-- ENCODE from any state takes n + 3 edges, emits on each of its n last, and gives encode_ref
unless SAT is set at its end (30_encoding.md R68, 42_frame.md R120, 42_frame.md R126,
70_reset_and_hazards.md R174). -/
def Obligations.EncodeCallIsReferenceEncoder : Prop :=
  ∀ (s : State) (samples : List Word) (d : Word), 1 ≤ sint d →
    let os := observe (samples.length + 3) (s.drive (encodeFrame samples d))
    (encodeFrame samples d).length = samples.length + 3 ∧ os.length = samples.length + 3 ∧
    (∀ o ∈ os.take 3, o.outValid = false) ∧ (∀ o ∈ os.drop 3, o.outValid = true) ∧
    ((∀ o ∈ os.getLast?, o.satBit = false) →
      bitstream os = (encodeRef (samples.map sint) (sint d)).1 ∧
      (refTrace os).map sint = (encodeRef (samples.map sint) (sint d)).2)

/-- From SET_STEP's cycle on, ENCODE with a valid step gives the same ports, cycle for cycle,
whatever came before it (42_frame.md R130, 30_encoding.md R68). -/
def Obligations.EncodeIgnoresPriorState : Prop :=
  ∀ (s s' : State) (samples : List Word) (d : Word), 1 ≤ sint d →
    let os := observe (samples.length + 3) (s.drive (encodeFrame samples d))
    let os' := observe (samples.length + 3) (s'.drive (encodeFrame samples d))
    os.drop 2 = os'.drop 2 ∧ bitstream os = bitstream os' ∧ refTrace os = refTrace os'

/-- ENCODE with a step that is not positive emits nothing, shows PARAM_ERR from SET_STEP on, and
SAMPLE_REJ with each sample (42_frame.md R122, 30_encoding.md R68). -/
def Obligations.FailedCallHasNoOutput : Prop :=
  ∀ (s : State) (samples : List Word) (d : Word), sint d ≤ 0 →
    let os := observe (samples.length + 3) (s.drive (encodeFrame samples d))
    os.length = samples.length + 3 ∧ bitstream os = [] ∧ refTrace os = [] ∧
    (∀ o ∈ os.drop 2, o.status.getLsbD 1 = true) ∧
    (∀ o ∈ os.drop 3, o.status.getLsbD 2 = true) ∧
    (∀ o ∈ os[2]?, o.status.getLsbD 2 = false)

/-- A sequence of edges with no SAMPLE emits nothing; ENCODE of no samples ends with no error flag
(42_frame.md R123, 90_conflicts.md C1). -/
def Obligations.EmptyFrameHasNoOutput : Prop :=
  (∀ (s : State) (is : List (Inputs 16)), (∀ i ∈ is, i.performs 0b001#3 = false) →
    bitstream (observe is.length (s.drive is)) = [] ∧
    refTrace (observe is.length (s.drive is)) = []) ∧
  (∀ (s : State) (d : Word), 1 ≤ sint d →
    ∃ o ∈ (observe 3 (s.drive (encodeFrame [] d))).getLast?, o.status = 0x01#8 ∧
      o.outValid = false ∧ o.refOut = 0)

/-- NOP, IDLE edges, CLEAR_FLAGS and reserved commands leave ACC, STEP and BIT_Q, so a frame's
samples see the same reference (42_frame.md R120). -/
def Obligations.OtherCommandsKeepTheReference : Prop :=
  ∀ s : State, s.ports.rst = false →
    (s.ports.cmdValid = false ∨ s.ports.cmdOp = 0b000#3 ∨ s.ports.cmdOp = 0b100#3 ∨
      s.ports.cmdOp = 0b101#3 ∨ s.ports.cmdOp = 0b110#3 ∨ s.ports.cmdOp = 0b111#3) →
    ∃ t : State, step s = .next t ∧ t.regs.acc = s.regs.acc ∧ t.regs.step = s.regs.step ∧
      t.regs.bitQ = s.regs.bitQ ∧ t.regs.validQ = false ∧
      (s.regs.paramErr = false → t.regs.ready = s.regs.ready)

/-- An operand is transcribed to the word that stands for it, and refused where no word does;
nothing is rounded (30_encoding.md R67, 00_scope.md R15). That reals are taken as fractions, and the
words' numbers as rationals, is the model's choice (log 10, log 14). -/
def Obligations.TranscriberTakesRepresentableOperands : Prop :=
  (∀ w : Word, (Operand.hex w : Operand 16).word? = some w) ∧
  (∀ (i : Int) (w : Word), (Operand.int i : Operand 16).word? = some w ↔ sint w = i) ∧
  (∀ i : Int, (Operand.int i : Operand 16).word? = none ↔ i < -32768 ∨ 32767 < i) ∧
  (∀ (num : Int) (den : Nat) (w : Word), den ≠ 0 →
    ((Operand.real num den : Operand 16).word? = some w ↔ value 8 w = (num : ℚ) / (den : ℚ))) ∧
  (∀ (num : Int) (den : Nat), den ≠ 0 →
    ((Operand.real num den : Operand 16).word? = none ↔ ∀ w : Word, value 8 w ≠ (num : ℚ) / (den : ℚ)))

/-- Each assembler line drives the edges the spec gives it; ENCODE drives CLEAR, CLEAR_FLAGS,
SET_STEP and its SAMPLEs; a refused operand refuses the line (30_encoding.md R67, 30_encoding.md
R68). -/
def Obligations.LinesDriveTheirEdges : Prop :=
  (Line.nop : Line 16).edges? = some [⟨false, true, 0b000#3, 0⟩] ∧
  (Line.clear : Line 16).edges? = some [⟨false, true, 0b011#3, 0⟩] ∧
  (Line.clearFlags : Line 16).edges? = some [⟨false, true, 0b100#3, 0⟩] ∧
  (Line.rsv5 : Line 16).edges? = some [⟨false, true, 0b101#3, 0⟩] ∧
  (Line.rsv6 : Line 16).edges? = some [⟨false, true, 0b110#3, 0⟩] ∧
  (Line.rsv7 : Line 16).edges? = some [⟨false, true, 0b111#3, 0⟩] ∧
  (∃ i : Inputs 16, (Line.idle : Line 16).edges? = some [i] ∧ i.rst = false ∧ i.cmdValid = false) ∧
  (∃ i : Inputs 16, (Line.reset : Line 16).edges? = some [i] ∧ i.rst = true) ∧
  (∀ (o : Operand 16) (w : Word), o.word? = some w →
    (Line.sample o).edges? = some [⟨false, true, 0b001#3, w⟩] ∧
    (Line.setStep o).edges? = some [⟨false, true, 0b010#3, w⟩]) ∧
  (∀ o : Operand 16, o.word? = none → (Line.sample o).edges? = none ∧ (Line.setStep o).edges? = none) ∧
  (∀ (os : List (Operand 16)) (o : Operand 16) (ws : List Word) (d : Word),
    os.mapM Operand.word? = some ws → o.word? = some d →
      (Line.encode os o).edges? = some ([⟨false, true, 0b011#3, 0⟩, ⟨false, true, 0b100#3, 0⟩,
        ⟨false, true, 0b010#3, d⟩] ++ ws.map fun w => ⟨false, true, 0b001#3, w⟩)) ∧
  (∀ (os : List (Operand 16)) (o : Operand 16), (o.word? = none ∨ ∃ x ∈ os, x.word? = none) →
    (Line.encode os o).edges? = none)

/-- This hardware's machine is the machine with its width as an argument, at W = 16: step, exec,
reset, ports, words and assembler (00_scope.md R7, 10_state.md R40). Which names stand at 16, and
which take the width, is log 3. -/
def Obligations.MachineIsWidthMachineAtSixteen : Prop :=
  (∀ s t : State, step s = .next t ↔ stepAt s.toStateAt = .next t.toStateAt) ∧
  (∀ (i : Instr) (s t : State),
    exec i s = .next t ↔ execAt i.command s.toStateAt = .next t.toStateAt) ∧
  State.reset.toStateAt = (coreAt 16).reset ∧
  (∀ (n : Nat) (s : State), observe n s = observeAt n s.toStateAt) ∧
  (∀ c : CmdWord, (decode c).command = decodeCommand c) ∧
  (∀ i : Instr, encode i = encodeCommand i.command) ∧
  (∀ text : List Char, assemble text = assembleAt 16 8 text)

/-- At every width, decoding an encoded command gives it back, its word is op * 2^W + data, and each
word is the encoding of the command it decodes to (30_encoding.md R60, 30_encoding.md R61,
30_encoding.md R65, 00_scope.md R7). That a word comes back from its command holds because the model
keeps the data field that some commands ignore: the model's choice (log 8). -/
def Obligations.DecodeEncodeAtEveryWidth : Prop :=
  ∀ W : Nat,
    (∀ c : Command W,
      decodeCommand (encodeCommand c) = c ∧
      decodeCommandBits W (encodeCommand c).toNat = .ok c ∧
      (encodeCommand c).toNat = c.opcode.bits.toNat * 2 ^ W + c.data.toNat) ∧
    (∀ w : CmdWordOf W,
      encodeCommand (decodeCommand w) = w ∧
      (decodeCommand w).opcode.bits.toNat = w.toNat / 2 ^ W ∧
      (decodeCommand w).data.toNat = w.toNat % 2 ^ W)

/-- At every width, the machine's step, by decoding the word on the ports, is the spec's Step(S, I)
(10_state.md R40, 00_scope.md R7). -/
def Obligations.StepIsSpecStepAtEveryWidth : Prop :=
  ∀ (W : Nat) (s : StateAt W), stepAt s = .next ⟨s.regs.next s.ports, s.inputs.tail⟩

/-- At every width, each of the eight commands answers the next state its rule gives, every register
named (00_scope.md R7, 40_datapath.md R81, 40_datapath.md R82, 41_control.md R100, 41_control.md
R102, 41_control.md R103, 41_control.md R104, 41_control.md R106, 41_control.md R108). -/
def Obligations.CommandsAtEveryWidth : Prop :=
  ∀ (W : Nat) (data : BitVec W) (s : StateAt W),
    execAt ⟨.nop, data⟩ s = .next { s with regs := { s.regs with validQ := false } } ∧
    (s.regs.ready = true →
      let t : Int := if sint s.regs.acc < sint data then sint s.regs.acc + sint s.regs.step
        else sint s.regs.acc - sint s.regs.step
      let c : Int := max (-2 ^ (W - 1)) (min (2 ^ (W - 1) - 1) t)
      execAt ⟨.sample, data⟩ s = .next { s with regs := { s.regs with
        acc := BitVec.ofInt W c
        bitQ := decide (sint s.regs.acc < sint data)
        validQ := true
        sat := s.regs.sat || decide (c ≠ t) } }) ∧
    (s.regs.ready = false → execAt ⟨.sample, data⟩ s =
      .next { s with regs := { s.regs with sampleRej := true, validQ := false } }) ∧
    (1 ≤ sint data → execAt ⟨.setStep, data⟩ s = .next { s with regs := { s.regs with
      step := data
      paramErr := false
      validQ := false } }) ∧
    (sint data ≤ 0 → execAt ⟨.setStep, data⟩ s =
      .next { s with regs := { s.regs with paramErr := true, validQ := false } }) ∧
    execAt ⟨.clear, data⟩ s =
      .next { s with regs := { s.regs with acc := 0, bitQ := false, validQ := false } } ∧
    execAt ⟨.clearFlags, data⟩ s = .next { s with regs := { s.regs with
      paramErr := false
      sampleRej := false
      illCmd := false
      sat := false
      validQ := false } } ∧
    ∀ o : Opcode, o = .rsv5 ∨ o = .rsv6 ∨ o = .rsv7 → execAt ⟨o, data⟩ s =
      .next { s with regs := { s.regs with illCmd := true, validQ := false } }

/-- At every width, every step keeps the invariant of the registers, and the reset state meets it
(00_scope.md R7, 10_state.md R25, 10_state.md R31, 10_state.md R33, 10_state.md R24, 10_state.md
R32). Two of the three clauses of `Inv` are the model's inference from the spec's rules (log 11). -/
def Obligations.StepKeepsInvariantAtEveryWidth : Prop :=
  ∀ W : Nat, (StateAt.reset W).regs.Inv ∧
    ∀ s : StateAt W, s.regs.Inv → ∃ t : StateAt W, stepAt s = .next t ∧ t.regs.Inv

/-- At every width, the outputs of a frame without a clamp are those of the source's encoder, and
its trace those of the decoder recurrence (00_scope.md R7, 42_frame.md R120, 42_frame.md R126,
42_frame.md R127). -/
def Obligations.FrameAtEveryWidth : Prop :=
  ∀ (W : Nat) (s : StateAt W) (start : Inputs W) (body : List (Inputs W)) (d : BitVec W),
    2 ≤ W → beginsFrame start = true → (∀ i ∈ body, beginsFrame i = false) →
    (∀ p ∈ (s.regs.next start).accepted body, p.2 = d) →
    (s.regs.next start).clampFree body = true →
    let os := observeAt (body.length + 1) (s.drive (start :: body))
    let samples := ((s.regs.next start).accepted body).map Prod.fst
    bitstream os = (encodeRef (samples.map sint) (sint d)).1 ∧
    (refTrace os).map sint = (encodeRef (samples.map sint) (sint d)).2 ∧
    (refTrace os).map sint = decodeRef (bitstream os) (sint d)

/-- At every width and number of fraction bits, an operand is transcribed to the word that stands
for it, and refused where no word does (00_scope.md R7, 00_scope.md R8, 30_encoding.md R67). That
reals are taken as fractions, and the words' numbers as rationals, is the model's choice (log 10,
log 14). -/
def Obligations.TranscriberAtEveryWidth : Prop :=
  ∀ W F : Nat, Config.wf W F = true →
    (∀ w : BitVec W, (Operand.hex w).wordAt? F = some w) ∧
    (∀ (i : Int) (w : BitVec W), (Operand.int i).wordAt? F = some w ↔ sint w = i) ∧
    (∀ i : Int, (Operand.int i : Operand W).wordAt? F = none ↔ ∀ w : BitVec W, sint w ≠ i) ∧
    (∀ (num : Int) (den : Nat) (w : BitVec W), den ≠ 0 →
      ((Operand.real num den).wordAt? F = some w ↔ value F w = (num : ℚ) / (den : ℚ))) ∧
    (∀ (num : Int) (den : Nat), den ≠ 0 →
      ((Operand.real num den : Operand W).wordAt? F = none ↔
        ∀ w : BitVec W, value F w ≠ (num : ℚ) / (den : ℚ)))
end

