-- ==== Sys2Proof/Laws/State.lean ====
section
/-!
SUPPORT. One lemma per field and per update of the registers and of the state, so that no proof unfolds
a record update.
-/

namespace Sys2Proof.Machine

section Registers

variable {W : Nat} (r : Regs W)

@[simp] theorem Regs.dropStrobe_acc : r.dropStrobe.acc = r.acc := rfl
@[simp] theorem Regs.dropStrobe_step : r.dropStrobe.step = r.step := rfl
@[simp] theorem Regs.dropStrobe_bitQ : r.dropStrobe.bitQ = r.bitQ := rfl
@[simp] theorem Regs.dropStrobe_validQ : r.dropStrobe.validQ = false := rfl
@[simp] theorem Regs.dropStrobe_paramErr : r.dropStrobe.paramErr = r.paramErr := rfl
@[simp] theorem Regs.dropStrobe_sampleRej : r.dropStrobe.sampleRej = r.sampleRej := rfl
@[simp] theorem Regs.dropStrobe_illCmd : r.dropStrobe.illCmd = r.illCmd := rfl
@[simp] theorem Regs.dropStrobe_sat : r.dropStrobe.sat = r.sat := rfl

@[simp] theorem Regs.clearSticky_acc : r.clearSticky.acc = r.acc := rfl
@[simp] theorem Regs.clearSticky_step : r.clearSticky.step = r.step := rfl
@[simp] theorem Regs.clearSticky_bitQ : r.clearSticky.bitQ = r.bitQ := rfl
@[simp] theorem Regs.clearSticky_validQ : r.clearSticky.validQ = r.validQ := rfl
@[simp] theorem Regs.clearSticky_paramErr : r.clearSticky.paramErr = false := rfl
@[simp] theorem Regs.clearSticky_sampleRej : r.clearSticky.sampleRej = false := rfl
@[simp] theorem Regs.clearSticky_illCmd : r.clearSticky.illCmd = false := rfl
@[simp] theorem Regs.clearSticky_sat : r.clearSticky.sat = false := rfl

@[simp] theorem Regs.seed_acc : r.seed.acc = 0 := rfl
@[simp] theorem Regs.seed_step : r.seed.step = r.step := rfl
@[simp] theorem Regs.seed_bitQ : r.seed.bitQ = false := rfl
@[simp] theorem Regs.seed_validQ : r.seed.validQ = r.validQ := rfl
@[simp] theorem Regs.seed_paramErr : r.seed.paramErr = r.paramErr := rfl
@[simp] theorem Regs.seed_sampleRej : r.seed.sampleRej = r.sampleRej := rfl
@[simp] theorem Regs.seed_illCmd : r.seed.illCmd = r.illCmd := rfl
@[simp] theorem Regs.seed_sat : r.seed.sat = r.sat := rfl

@[simp] theorem Regs.configure_acc (data : BitVec W) : (r.configure data).acc = r.acc := rfl
@[simp] theorem Regs.configure_step (data : BitVec W) : (r.configure data).step = data := rfl
@[simp] theorem Regs.configure_bitQ (data : BitVec W) : (r.configure data).bitQ = r.bitQ := rfl
@[simp] theorem Regs.configure_validQ (data : BitVec W) : (r.configure data).validQ = r.validQ := rfl
@[simp] theorem Regs.configure_paramErr (data : BitVec W) : (r.configure data).paramErr = false := rfl
@[simp] theorem Regs.configure_sampleRej (data : BitVec W) : (r.configure data).sampleRej = r.sampleRej := rfl
@[simp] theorem Regs.configure_illCmd (data : BitVec W) : (r.configure data).illCmd = r.illCmd := rfl
@[simp] theorem Regs.configure_sat (data : BitVec W) : (r.configure data).sat = r.sat := rfl

@[simp] theorem Regs.emit_acc (up : Bool) (a : BitVec W) : (r.emit up a).acc = a := rfl
@[simp] theorem Regs.emit_step (up : Bool) (a : BitVec W) : (r.emit up a).step = r.step := rfl
@[simp] theorem Regs.emit_bitQ (up : Bool) (a : BitVec W) : (r.emit up a).bitQ = up := rfl
@[simp] theorem Regs.emit_validQ (up : Bool) (a : BitVec W) : (r.emit up a).validQ = true := rfl
@[simp] theorem Regs.emit_paramErr (up : Bool) (a : BitVec W) : (r.emit up a).paramErr = r.paramErr := rfl
@[simp] theorem Regs.emit_sampleRej (up : Bool) (a : BitVec W) : (r.emit up a).sampleRej = r.sampleRej := rfl
@[simp] theorem Regs.emit_illCmd (up : Bool) (a : BitVec W) : (r.emit up a).illCmd = r.illCmd := rfl
@[simp] theorem Regs.emit_sat (up : Bool) (a : BitVec W) : (r.emit up a).sat = r.sat := rfl

@[simp] theorem Regs.raise_paramErr_acc : (r.raise .paramErr).acc = r.acc := rfl
@[simp] theorem Regs.raise_paramErr_step : (r.raise .paramErr).step = r.step := rfl
@[simp] theorem Regs.raise_paramErr_bitQ : (r.raise .paramErr).bitQ = r.bitQ := rfl
@[simp] theorem Regs.raise_paramErr_validQ : (r.raise .paramErr).validQ = r.validQ := rfl
@[simp] theorem Regs.raise_paramErr_paramErr : (r.raise .paramErr).paramErr = true := rfl
@[simp] theorem Regs.raise_paramErr_sampleRej : (r.raise .paramErr).sampleRej = r.sampleRej := rfl
@[simp] theorem Regs.raise_paramErr_illCmd : (r.raise .paramErr).illCmd = r.illCmd := rfl
@[simp] theorem Regs.raise_paramErr_sat : (r.raise .paramErr).sat = r.sat := rfl

@[simp] theorem Regs.raise_sampleRej_acc : (r.raise .sampleRej).acc = r.acc := rfl
@[simp] theorem Regs.raise_sampleRej_step : (r.raise .sampleRej).step = r.step := rfl
@[simp] theorem Regs.raise_sampleRej_bitQ : (r.raise .sampleRej).bitQ = r.bitQ := rfl
@[simp] theorem Regs.raise_sampleRej_validQ : (r.raise .sampleRej).validQ = r.validQ := rfl
@[simp] theorem Regs.raise_sampleRej_paramErr : (r.raise .sampleRej).paramErr = r.paramErr := rfl
@[simp] theorem Regs.raise_sampleRej_sampleRej : (r.raise .sampleRej).sampleRej = true := rfl
@[simp] theorem Regs.raise_sampleRej_illCmd : (r.raise .sampleRej).illCmd = r.illCmd := rfl
@[simp] theorem Regs.raise_sampleRej_sat : (r.raise .sampleRej).sat = r.sat := rfl

@[simp] theorem Regs.raise_illCmd_acc : (r.raise .illCmd).acc = r.acc := rfl
@[simp] theorem Regs.raise_illCmd_step : (r.raise .illCmd).step = r.step := rfl
@[simp] theorem Regs.raise_illCmd_bitQ : (r.raise .illCmd).bitQ = r.bitQ := rfl
@[simp] theorem Regs.raise_illCmd_validQ : (r.raise .illCmd).validQ = r.validQ := rfl
@[simp] theorem Regs.raise_illCmd_paramErr : (r.raise .illCmd).paramErr = r.paramErr := rfl
@[simp] theorem Regs.raise_illCmd_sampleRej : (r.raise .illCmd).sampleRej = r.sampleRej := rfl
@[simp] theorem Regs.raise_illCmd_illCmd : (r.raise .illCmd).illCmd = true := rfl
@[simp] theorem Regs.raise_illCmd_sat : (r.raise .illCmd).sat = r.sat := rfl

@[simp] theorem Regs.raise_sat_acc : (r.raise .sat).acc = r.acc := rfl
@[simp] theorem Regs.raise_sat_step : (r.raise .sat).step = r.step := rfl
@[simp] theorem Regs.raise_sat_bitQ : (r.raise .sat).bitQ = r.bitQ := rfl
@[simp] theorem Regs.raise_sat_validQ : (r.raise .sat).validQ = r.validQ := rfl
@[simp] theorem Regs.raise_sat_paramErr : (r.raise .sat).paramErr = r.paramErr := rfl
@[simp] theorem Regs.raise_sat_sampleRej : (r.raise .sat).sampleRej = r.sampleRej := rfl
@[simp] theorem Regs.raise_sat_illCmd : (r.raise .sat).illCmd = r.illCmd := rfl
@[simp] theorem Regs.raise_sat_sat : (r.raise .sat).sat = true := rfl

@[simp] theorem Regs.reset_acc : (Regs.reset W).acc = 0 := rfl
@[simp] theorem Regs.reset_step : (Regs.reset W).step = 0 := rfl
@[simp] theorem Regs.reset_bitQ : (Regs.reset W).bitQ = false := rfl
@[simp] theorem Regs.reset_validQ : (Regs.reset W).validQ = false := rfl
@[simp] theorem Regs.reset_paramErr : (Regs.reset W).paramErr = false := rfl
@[simp] theorem Regs.reset_sampleRej : (Regs.reset W).sampleRej = false := rfl
@[simp] theorem Regs.reset_illCmd : (Regs.reset W).illCmd = false := rfl
@[simp] theorem Regs.reset_sat : (Regs.reset W).sat = false := rfl

@[simp] theorem Regs.outputs_bitOut : r.outputs.bitOut = r.bitQ := rfl
@[simp] theorem Regs.outputs_outValid : r.outputs.outValid = r.validQ := rfl
@[simp] theorem Regs.outputs_refOut : r.outputs.refOut = r.acc := rfl
@[simp] theorem Regs.outputs_stepOut : r.outputs.stepOut = r.step := rfl
@[simp] theorem Regs.outputs_ready : r.outputs.ready = r.ready := rfl
@[simp] theorem Regs.outputs_status : r.outputs.status = r.statusWord := rfl

end Registers

section Ports

variable {W : Nat} (op : BitVec 3) (data : BitVec W)

@[simp] theorem Inputs.issue_rst : (Inputs.issue op data).rst = false := rfl
@[simp] theorem Inputs.issue_cmdValid : (Inputs.issue op data).cmdValid = true := rfl
@[simp] theorem Inputs.issue_cmdOp : (Inputs.issue op data).cmdOp = op := rfl
@[simp] theorem Inputs.issue_cmdData : (Inputs.issue op data).cmdData = data := rfl
@[simp] theorem Inputs.idle_rst : (Inputs.idle W).rst = false := rfl
@[simp] theorem Inputs.idle_cmdValid : (Inputs.idle W).cmdValid = false := rfl
@[simp] theorem Inputs.reset_rst : (Inputs.reset W).rst = true := rfl

end Ports

section States

variable {W : Nat} (s : StateAt W) (r : Regs W) (i : Inputs W) (is : List (Inputs W))

@[simp] theorem StateAt.withRegs_regs : (s.withRegs r).regs = r := rfl
@[simp] theorem StateAt.withRegs_inputs : (s.withRegs r).inputs = s.inputs := rfl
@[simp] theorem StateAt.withRegs_ports : (s.withRegs r).ports = s.ports := rfl
@[simp] theorem StateAt.advance_regs : s.advance.regs = s.regs := rfl
@[simp] theorem StateAt.advance_inputs : s.advance.inputs = s.inputs.tail := rfl
@[simp] theorem StateAt.drive_regs : (s.drive is).regs = s.regs := rfl
@[simp] theorem StateAt.drive_inputs : (s.drive is).inputs = is := rfl
@[simp] theorem StateAt.drive_cons_ports : (s.drive (i :: is)).ports = i := rfl
@[simp] theorem StateAt.drive_nil_ports : (s.drive []).ports = Inputs.idle W := rfl
@[simp] theorem StateAt.drive_cons_advance : (s.drive (i :: is)).advance = s.drive is := rfl
@[simp] theorem StateAt.driveNext_regs : (s.driveNext i).regs = s.regs := rfl
@[simp] theorem StateAt.driveNext_inputs : (s.driveNext i).inputs = i :: s.inputs.tail := rfl
@[simp] theorem StateAt.driveNext_ports : (s.driveNext i).ports = i := rfl
@[simp] theorem StateAt.reset_regs : (StateAt.reset W).regs = Regs.reset W := rfl
@[simp] theorem StateAt.reset_inputs : (StateAt.reset W).inputs = [] := rfl

end States

section Hardware

variable (s : State) (r : Regs Config.W) (i : Inputs Config.W) (is : List (Inputs Config.W))

@[simp] theorem State.withRegs_toStateAt : (s.withRegs r).toStateAt = s.toStateAt.withRegs r := rfl
@[simp] theorem State.advance_toStateAt : s.advance.toStateAt = s.toStateAt.advance := rfl
@[simp] theorem State.drive_toStateAt : (s.drive is).toStateAt = s.toStateAt.drive is := rfl
@[simp] theorem State.driveNext_toStateAt :
    (s.driveNext i).toStateAt = s.toStateAt.driveNext i := rfl
@[simp] theorem State.reset_toStateAt : State.reset.toStateAt = StateAt.reset Config.W := rfl
@[simp] theorem State.withRegs_ports : (s.withRegs r).ports = s.ports := rfl
@[simp] theorem State.drive_cons_ports : (s.drive (i :: is)).ports = i := rfl
@[simp] theorem State.drive_nil_ports : (s.drive []).ports = Inputs.idle Config.W := rfl
@[simp] theorem State.drive_cons_advance : (s.drive (i :: is)).advance = s.drive is := rfl
@[simp] theorem State.driveNext_ports : (s.driveNext i).ports = i := rfl

end Hardware

end Sys2Proof.Machine
end

