-- ==== Sys2Proof/Laws/Operands.lean ====
section
/-!
SUPPORT. What the operand and flag functions answer, each said once: the range of a word's value, the
clamp, the round trip through `word_W`, READY and the bits of STATUS.
-/

namespace Sys2Proof.Machine

/-- A word's value is at least `MIN`, at every width the spec allows. -/
theorem minInt_le_sint {W : Nat} (v : BitVec W) : minInt W ≤ sint v :=
  BitVec.le_toInt v

/-- A word's value is at most `MAX`. -/
theorem sint_le_maxInt {W : Nat} (v : BitVec W) : sint v ≤ maxInt W := by
  have h := BitVec.toInt_lt (x := v)
  simp only [sint, maxInt]
  omega

/-- Words with the same value are the same. -/
theorem sint_inj {W : Nat} {v w : BitVec W} (h : sint v = sint w) : v = w := BitVec.eq_of_toInt_eq h

/-- The clamp in terms of the two bounds. -/
theorem clamp_cases (W : Nat) (i : Int) :
    (maxInt W < i ∧ clamp W i = maxInt W) ∨
    (i < minInt W ∧ i ≤ maxInt W ∧ clamp W i = minInt W) ∨
    (minInt W ≤ i ∧ i ≤ maxInt W ∧ clamp W i = i) := by
  unfold clamp
  split
  · exact .inl ⟨‹_›, rfl⟩
  · split
    · exact .inr (.inl ⟨‹_›, by omega, rfl⟩)
    · exact .inr (.inr ⟨by omega, by omega, rfl⟩)

theorem minInt_le_maxInt (W : Nat) : minInt W ≤ maxInt W := by
  have h : (0 : Int) < 2 ^ (W - 1) := by positivity
  simp only [minInt, maxInt]
  omega

/-- The clamp is always in range. -/
theorem clamp_range (W : Nat) (i : Int) : minInt W ≤ clamp W i ∧ clamp W i ≤ maxInt W := by
  have := minInt_le_maxInt W
  rcases clamp_cases W i with ⟨_, h⟩ | ⟨_, _, h⟩ | ⟨_, _, h⟩ <;> rw [h] <;> constructor <;> omega

/-- The clamp as the spec's `max` and `min` would write it. -/
theorem clamp_eq_max_min (W : Nat) (i : Int) : clamp W i = max (minInt W) (min (maxInt W) i) := by
  have := minInt_le_maxInt W
  rcases clamp_cases W i with ⟨_, h⟩ | ⟨_, _, h⟩ | ⟨_, _, h⟩ <;> rw [h] <;> omega

/-- `sint` undoes `word_W` on `[MIN, MAX]`. -/
theorem sint_wordOf_of_range {W : Nat} (hW : 0 < W) {i : Int} (lo : minInt W ≤ i)
    (hi : i ≤ maxInt W) : sint (wordOf W i) = i := by
  obtain ⟨n, rfl⟩ : ∃ n, W = n + 1 := ⟨W - 1, by omega⟩
  simp only [minInt, maxInt, Nat.add_sub_cancel] at lo hi
  have hpow : (2 : Int) ^ (n + 1) = 2 * 2 ^ n := by ring
  simp only [sint, wordOf, BitVec.toInt_ofInt]
  rw [Int.bmod_eq_of_le_mul_two] <;> push_cast <;> omega

/-- `sint` undoes `word_W` after the clamp: no update wraps. -/
theorem sint_wordOf_clamp {W : Nat} (hW : 0 < W) (i : Int) :
    sint (wordOf W (clamp W i)) = clamp W i :=
  sint_wordOf_of_range hW (clamp_range W i).1 (clamp_range W i).2

theorem minInt_config : minInt Config.W = -32768 := by decide

theorem maxInt_config : maxInt Config.W = 32767 := by decide

/-- The range of a data word's value, in numbers. -/
theorem sint_word_range (v : Word) : -32768 ≤ sint v ∧ sint v ≤ 32767 :=
  ⟨minInt_le_sint v, sint_le_maxInt v⟩

/-- The range of a data word's bits, in numbers. -/
theorem word_toNat_lt (v : Word) : v.toNat < 65536 := v.isLt

theorem comparator_iff {W : Nat} (data acc : BitVec W) :
    comparator data acc = true ↔ sint acc < sint data := by
  simp [comparator]

theorem unclamped_comparator {W : Nat} (data acc step : BitVec W) :
    unclamped (comparator data acc) acc step =
      if sint acc < sint data then sint acc + sint step else sint acc - sint step := by
  simp [unclamped, comparator]

theorem saturates_iff (W : Nat) (t : Int) :
    saturates W t = true ↔ t < minInt W ∨ maxInt W < t := by
  have := minInt_le_maxInt W
  simp only [saturates, Bool.not_eq_true', beq_eq_false_iff_ne, ne_eq]
  rcases clamp_cases W t with ⟨_, h⟩ | ⟨_, _, h⟩ | ⟨_, _, h⟩ <;> rw [h] <;> omega

theorem Regs.ready_iff {W : Nat} (r : Regs W) :
    r.ready = true ↔ r.step ≠ 0 ∧ r.paramErr = false := by
  simp [Regs.ready]

theorem Regs.ready_false_iff {W : Nat} (r : Regs W) :
    r.ready = false ↔ r.step = 0 ∨ r.paramErr = true := by
  simp only [Regs.ready, Bool.and_eq_false_iff, Bool.not_eq_false', beq_iff_eq]

theorem stepValid_iff {W : Nat} (data : BitVec W) : stepValid data = true ↔ 1 ≤ sint data := by
  simp [stepValid]

/-- A READY block whose STEP is not negative has a positive step. -/
theorem Regs.one_le_step {W : Nat} {r : Regs W} (hr : r.ready = true) (h : 0 ≤ sint r.step) :
    1 ≤ sint r.step := by
  have hne : r.step ≠ 0 := (r.ready_iff.mp hr).1
  rcases Int.lt_or_eq_of_le h with h | h
  · omega
  · exact absurd (sint_inj (v := r.step) (w := 0) (by simp [sint] at h ⊢; omega)) hne

/-- The status port's SAT bit is SAT. -/
@[simp] theorem Regs.outputs_satBit {W : Nat} (r : Regs W) : r.outputs.satBit = r.sat := by
  simp only [Outputs.satBit, Regs.outputs, Regs.statusWord]
  cases r.sat <;> cases r.illCmd <;> cases r.sampleRej <;> cases r.paramErr <;> cases r.ready <;>
    decide

end Sys2Proof.Machine
end

