-- ==== Sys2Proof/Laws/PerInstr.lean ====
section
/-!
SUPPORT. The family EncodeFields: the encoded word of each command carries its opcode and its operand in
the fields 30_encoding.md R60 gives them; and the maps between opcodes, commands and table rows undo each
other.
-/

namespace Sys2Proof

/-- The low bits of `{op, data}` are `data` (30_encoding.md R60). -/
theorem dataField_append {W : Nat} (op : Op) (data : BitVec W) :
    dataField (op ++ data : CmdWordOf W) = data := by
  ext i hi
  simp [dataField, BitVec.getLsbD_append, hi, BitVec.getLsbD_eq_getElem]

/-- The high bits of `{op, data}` are `op` (30_encoding.md R60). -/
theorem opField_append {W : Nat} (op : Op) (data : BitVec W) :
    opField (op ++ data : CmdWordOf W) = op := by
  ext i hi
  simp [opField, BitVec.getLsbD_append, BitVec.getLsbD_eq_getElem hi]

/-- The opcode map from `op` undoes the one to it (30_encoding.md R61). -/
@[simp] theorem Opcode.ofBits_bits (o : Opcode) : Opcode.ofBits o.bits = o := by cases o <;> rfl

/-- The opcode map to `op` undoes the one from it (30_encoding.md R61). -/
@[simp] theorem Opcode.bits_ofBits (op : Op) : (Opcode.ofBits op).bits = op := by
  revert op
  decide

/-- A table row and its command say the same. -/
@[simp] theorem Instr.command_instr (i : Instr) : i.command.instr = i := by cases i <;> rfl

/-- A command and its table row say the same. -/
@[simp] theorem Command.instr_command (c : Command Config.W) : c.instr.command = c := by
  obtain ⟨o, data⟩ := c
  cases o <;> rfl

namespace Laws

/-- The encoded word's fields are the command's opcode and operand. -/
def EncodeFields.Statement (i : Instr) : Prop :=
  opField (encode i) = i.command.opcode.bits ∧ dataField (encode i) = i.command.data

theorem EncodeFields.nop (data : Word) : EncodeFields.Statement (.nop data) :=
  ⟨opField_append _ _, dataField_append _ _⟩

theorem EncodeFields.sample (data : Word) : EncodeFields.Statement (.sample data) :=
  ⟨opField_append _ _, dataField_append _ _⟩

theorem EncodeFields.setStep (data : Word) : EncodeFields.Statement (.setStep data) :=
  ⟨opField_append _ _, dataField_append _ _⟩

theorem EncodeFields.clear (data : Word) : EncodeFields.Statement (.clear data) :=
  ⟨opField_append _ _, dataField_append _ _⟩

theorem EncodeFields.clearFlags (data : Word) : EncodeFields.Statement (.clearFlags data) :=
  ⟨opField_append _ _, dataField_append _ _⟩

theorem EncodeFields.rsv5 (data : Word) : EncodeFields.Statement (.rsv5 data) :=
  ⟨opField_append _ _, dataField_append _ _⟩

theorem EncodeFields.rsv6 (data : Word) : EncodeFields.Statement (.rsv6 data) :=
  ⟨opField_append _ _, dataField_append _ _⟩

theorem EncodeFields.rsv7 (data : Word) : EncodeFields.Statement (.rsv7 data) :=
  ⟨opField_append _ _, dataField_append _ _⟩

end Laws

end Sys2Proof
end

