-- ==== Sys2Proof/Laws/Ops.lean ====
section
/-!
SUPPORT. Everything each shared operation and each command's effect can do, said once, for the proofs
to cite instead of unfolding them.
-/

namespace Sys2Proof.Machine

/-- A completed command answers the next state, and nothing else. -/
theorem complete_eq (s : State) (r : Regs Config.W) : complete s r = .next (s.withRegs r) := rfl

theorem complete_next_iff (s t : State) (r : Regs Config.W) :
    complete s r = .next t ↔ t = s.withRegs r := by
  rw [complete_eq]
  constructor
  · intro h; cases h; rfl
  · rintro rfl; rfl

/-- The same at every width. -/
theorem completeAt_eq {W : Nat} (s : StateAt W) (r : Regs W) :
    completeAt s r = .next (s.withRegs r) := rfl

/-- A command's meaning at every width: the next state has its effect on the registers. -/
theorem execAt_eq {W : Nat} (c : Command W) (s : StateAt W) :
    execAt c s = .next (s.withRegs (s.regs.effect c)) := rfl

/-- A command's effect by name is the one R40 gives its opcode. -/
theorem Regs.effect_eq_perform {W : Nat} (r : Regs W) (c : Command W) :
    r.effect c = r.perform c.opcode.bits c.data := by
  obtain ⟨o, data⟩ := c
  cases o <;> rfl

/-- The command the block decodes at an edge has the opcode and the data its ports carry. -/
theorem decodeCommand_word {W : Nat} (i : Inputs W) :
    decodeCommand i.word = ⟨Opcode.ofBits i.op, i.cmdData⟩ := by
  simp only [decodeCommand, Inputs.word, opField_append, dataField_append]

theorem resetEdge_eq (s : State) : resetEdge s = .next (s.withRegs (Regs.reset Config.W)) := rfl

/-- Raising a condition sets its flag and keeps the other three. -/
theorem Regs.raise_flag {W : Nat} (r : Regs W) (c c' : ErrorCond) :
    (r.raise c).flag c' = (r.flag c' || decide (c' = c)) := by
  cases c <;> cases c' <;> simp [Regs.raise, Regs.flag]

/-- Raising a condition changes no register but a flag. -/
theorem Regs.raise_keeps {W : Nat} (r : Regs W) (c : ErrorCond) :
    (r.raise c).acc = r.acc ∧ (r.raise c).step = r.step ∧ (r.raise c).bitQ = r.bitQ ∧
      (r.raise c).validQ = r.validQ := by
  cases c <;> exact ⟨rfl, rfl, rfl, rfl⟩

/-- A conditional raise of SAT: the registers with SAT or-ed with the test. -/
theorem Regs.raiseIf_sat {W : Nat} (r : Regs W) (b : Bool) :
    r.raiseIf b .sat = { r with sat := r.sat || b } := by
  cases b <;> simp [Regs.raiseIf, Regs.raise]

/-- An accepted SAMPLE, every register named (40_datapath.md R81). -/
theorem Regs.sampleAccepted_eq {W : Nat} (r : Regs W) (data : BitVec W) :
    r.sampleAccepted data =
      { r with
        acc := wordOf W (clamp W (unclamped (comparator data r.acc) r.acc r.step))
        bitQ := comparator data r.acc
        validQ := true
        sat := r.sat || saturates W (unclamped (comparator data r.acc) r.acc r.step) } := by
  rw [Regs.sampleAccepted, Regs.raiseIf_sat]
  rfl

/-- A refused SAMPLE, every register named (40_datapath.md R82). -/
theorem Regs.sampleRefused_eq {W : Nat} (r : Regs W) :
    r.sampleRefused = { r with sampleRej := true, validQ := false } := rfl

theorem Regs.sample_of_ready {W : Nat} {r : Regs W} (h : r.ready = true) (data : BitVec W) :
    r.sample data = r.sampleAccepted data := if_pos h

theorem Regs.sample_of_not_ready {W : Nat} {r : Regs W} (h : r.ready = false) (data : BitVec W) :
    r.sample data = r.sampleRefused := if_neg (by simp [h])

/-- SET_STEP with a valid operand, every register named (41_control.md R102). -/
theorem Regs.setStep_of_valid {W : Nat} (r : Regs W) {data : BitVec W} (h : 1 ≤ sint data) :
    r.setStep data = { r with step := data, paramErr := false, validQ := false } :=
  if_pos ((stepValid_iff data).mpr h)

/-- SET_STEP with an invalid operand, every register named (41_control.md R103). -/
theorem Regs.setStep_of_invalid {W : Nat} (r : Regs W) {data : BitVec W} (h : sint data ≤ 0) :
    r.setStep data = { r with paramErr := true, validQ := false } :=
  if_neg (by rw [stepValid_iff]; omega)

/-- The other commands, every register named (41_control.md R100 to R108). -/
theorem Regs.nop_eq {W : Nat} (r : Regs W) : r.nop = { r with validQ := false } := rfl

theorem Regs.clear_eq {W : Nat} (r : Regs W) :
    r.clear = { r with acc := 0, bitQ := false, validQ := false } := rfl

theorem Regs.clearFlags_eq {W : Nat} (r : Regs W) :
    r.clearFlags =
      { r with
        paramErr := false
        sampleRej := false
        illCmd := false
        sat := false
        validQ := false } := rfl

theorem Regs.reserved_eq {W : Nat} (r : Regs W) :
    r.reserved = { r with illCmd := true, validQ := false } := rfl

end Sys2Proof.Machine
end

