-- ==== Sys2Proof/Tests/Slice0.lean ====
section
/-!
SUPPORT. Tests on fixed values, and for each statement of the certificates with hypotheses a witness:
a concrete state and operands that meet them. Expected results are copied from spec/95_test_vectors.md
(the vector's name stands beside each) or worked out by hand from the rule named.
-/

namespace Sys2Proof.Tests

open Sys2Proof.Machine

/-! ## WellFormed refuses an ill-formed term

`Instr.wf` refuses nothing: the spec has no ill-formed command (30_encoding.md R65), and an `Instr` has
no field that could hold one. -/

theorem test_config_wf : Config.wf Config.W Config.F = true := by decide
theorem test_config_width_one_refused : Config.wf 1 0 = false := by decide
theorem test_config_all_fraction_refused : Config.wf 16 16 = false := by decide
theorem test_config_width_two_accepted : Config.wf 2 1 = true := by decide
theorem test_largest_word_accepted : isCommandWord 16 0x7FFFF = true := by decide
theorem test_wider_word_refused : isCommandWord 16 0x80000 = false := by decide
theorem test_canonical_ignored_operand_refused :
    [Instr.nop 1, .clear 0x1234, .clearFlags 2, .rsv5 3, .rsv6 0xFFFF, .rsv7 4].all
      (fun i => !i.canonical) = true := by decide
theorem test_canonical_operand_accepted : (Instr.sample 0x8000).canonical = true := by decide

/-! ## Decoding: the words bit by bit, op in bits 18:16 and data in bits 15:0 (R60, R61) -/

theorem test_decode_nop : decode 0b0001010101111001101#19 = .nop 0xABCD#16 := by decide
theorem test_decode_sample : decode 0b0010000000100000000#19 = .sample 0x0100#16 := by decide
theorem test_decode_setStep : decode 0b0100000000010000000#19 = .setStep 0x0080#16 := by decide
theorem test_decode_clear : decode 0b0110001001000110100#19 = .clear 0x1234#16 := by decide
theorem test_decode_clearFlags : decode 0b1000000000000000000#19 = .clearFlags 0x0000#16 := by
  decide
theorem test_decode_rsv5 : decode 0b1010000000000000000#19 = .rsv5 0x0000#16 := by decide
theorem test_decode_rsv6 : decode 0b1101111111111111111#19 = .rsv6 0xFFFF#16 := by decide
theorem test_decode_rsv7 : decode 0b1110001001000110100#19 = .rsv7 0x1234#16 := by decide
theorem test_encode_setStep_minus_five : encode (.setStep 0xFFFB#16) = 0x2FFFB#19 := by decide
theorem test_decode_table_word : decodeTableWord 24 0x10100 = some (.sample 0x0100#16) := by decide
theorem test_decode_table_word_wide : decodeTableWord 24 0x80000 = none := by decide

/-! ## One step: the vectors of 95_test_vectors.md, section 2 -/

/-- Registers written as the spec's vectors write them: ACC / STEP / BIT_Q / VALID_Q / STATUS. READY,
bit 0 of STATUS, is no register. -/
def vec (acc step : Word) (bit valid : Bool) (status : BitVec 8) : Regs 16 :=
  ⟨acc, step, bit, valid, status.getLsbD 1, status.getLsbD 2, status.getLsbD 3, status.getLsbD 4⟩

/-- A state with these registers and these values on its input ports. -/
def edgeOf (r : Regs 16) (i : Inputs 16) : State := ⟨r, [i]⟩

/-- One step of these registers with these values on the ports leaves these registers, and the status
port shows this word. -/
def leaves (r : Regs 16) (i : Inputs 16) (r' : Regs 16) (status : BitVec 8) : Bool :=
  match step (edgeOf r i) with
  | .next t => decide (t.regs = r') && decide (t.regs.outputs.status = status)
  | .fault _ => false
  | .refused _ => false

/-- A vector of section 2.1 or 2.2: the operand, the registers before, the registers after. -/
def passes (op : BitVec 3) (data acc step : Word) (bit valid : Bool) (st : BitVec 8)
    (acc' step' : Word) (bit' valid' : Bool) (st' : BitVec 8) : Bool :=
  leaves (vec acc step bit valid st) (Inputs.issue op data) (vec acc' step' bit' valid' st') st'

/-- VS-2, VS-5, VS-6, VS-7, VS-8, VS-9, VS-10, VS-12, VS-13, VS-14, VS-19, VS-20. -/
theorem test_sample_accepted_vectors :
    (passes 1 0x0000 0x0000 0x0080 false false 0x01 0xFF80 0x0080 false true 0x01 &&
     passes 1 0xFF80 0xFF80 0x0080 false false 0x01 0xFF00 0x0080 false true 0x01 &&
     passes 1 0x7FFF 0x4000 0x4000 false false 0x01 0x7FFF 0x4000 true true 0x11 &&
     passes 1 0x7FFF 0x7FFF 0x4000 false false 0x01 0x3FFF 0x4000 false true 0x01 &&
     passes 1 0x8000 0xC000 0x4000 false false 0x01 0x8000 0x4000 false true 0x01 &&
     passes 1 0x8000 0x8000 0x4000 false false 0x01 0x8000 0x4000 false true 0x11 &&
     passes 1 0x8001 0x8000 0x4000 false false 0x01 0xC000 0x4000 true true 0x01 &&
     passes 1 0x7FFF 0x7FFF 0x7FFF false false 0x01 0x0000 0x7FFF false true 0x01 &&
     passes 1 0x8000 0x8000 0x7FFF false false 0x01 0x8000 0x7FFF false true 0x11 &&
     passes 1 0x7FFF 0x7FFE 0x7FFF false false 0x01 0x7FFF 0x7FFF true true 0x11 &&
     passes 1 0x7FFF 0x7F80 0x0080 false false 0x11 0x7FFF 0x0080 true true 0x11 &&
     passes 1 0x0123 0x0123 0x0080 true false 0x11 0x00A3 0x0080 false true 0x11) = true := by
  decide

/-- VS-17 and VS-18. -/
theorem test_sample_refused_vectors :
    (passes 1 0x0100 0x0000 0x0000 false false 0x00 0x0000 0x0000 false false 0x04 &&
     passes 1 0x0100 0x0080 0x0080 false false 0x02 0x0080 0x0080 false false 0x06) = true := by
  decide

/-- VT-2, VT-6, VT-7, VT-8. -/
theorem test_setStep_valid_vectors :
    (passes 2 0x0040 0x0000 0x0080 false false 0x02 0x0000 0x0040 false false 0x01 &&
     passes 2 0x7FFF 0x0000 0x0000 false false 0x00 0x0000 0x7FFF false false 0x01 &&
     passes 2 0x0001 0x0000 0x0000 false false 0x00 0x0000 0x0001 false false 0x01 &&
     passes 2 0x0040 0x0100 0x0080 true true 0x05 0x0100 0x0040 true false 0x05) = true := by
  decide

/-- VT-3, VT-4, VT-5, VT-9. -/
theorem test_setStep_invalid_vectors :
    (passes 2 0x0000 0x0000 0x0080 false false 0x01 0x0000 0x0080 false false 0x02 &&
     passes 2 0x8000 0x0000 0x0080 false false 0x01 0x0000 0x0080 false false 0x02 &&
     passes 2 0xFFFF 0x0000 0x0080 false false 0x01 0x0000 0x0080 false false 0x02 &&
     passes 2 0x0000 0x0000 0x0000 false false 0x00 0x0000 0x0000 false false 0x02) = true := by
  decide

/-- VC-1 and VC-2. -/
theorem test_clear_vectors :
    (passes 3 0x1234 0xFF80 0x0080 false true 0x19 0x0000 0x0080 false false 0x19 &&
     passes 3 0x0000 0x0100 0x0080 true false 0x01 0x0000 0x0080 false false 0x01) = true := by
  decide

/-- VF-1, VF-2, VF-3. -/
theorem test_clearFlags_vectors :
    (passes 4 0x0000 0x0100 0x0080 true false 0x1E 0x0100 0x0080 true false 0x01 &&
     passes 4 0x0000 0x0000 0x0000 false false 0x04 0x0000 0x0000 false false 0x00 &&
     passes 4 0x0000 0x0000 0x0080 false false 0x02 0x0000 0x0080 false false 0x01) = true := by
  decide

/-- VN-1 and VN-3. -/
theorem test_nop_vectors :
    (passes 0 0x0000 0x0080 0x0080 true true 0x01 0x0080 0x0080 true false 0x01 &&
     passes 0 0xABCD 0x0080 0x0080 true true 0x01 0x0080 0x0080 true false 0x01) = true := by
  decide

/-- VN-2: with `cmd_valid = 0` the opcode on the port is ignored. -/
theorem test_idle_vector :
    leaves (vec 0x0080 0x0080 true true 0x01) ⟨false, false, 1, 0x7FFF⟩
      (vec 0x0080 0x0080 true false 0x01) 0x01 = true := by
  decide

/-- VX-5. -/
theorem test_rsv5_vector :
    passes 5 0x0000 0x0080 0x0080 true false 0x01 0x0080 0x0080 true false 0x09 = true := by decide

/-- VX-6. -/
theorem test_rsv6_vector :
    passes 6 0xFFFF 0x0080 0x0080 true false 0x09 0x0080 0x0080 true false 0x09 = true := by decide

/-- VX-7. -/
theorem test_rsv7_vector :
    passes 7 0x1234 0x0000 0x0080 false false 0x01 0x0000 0x0080 false false 0x09 = true := by
  decide

/-- VR-1 and VR-2. -/
theorem test_reset_vectors :
    (leaves (vec 0x1234 0x0080 true true 0x1E) ⟨true, true, 1, 0x7FFF⟩ (vec 0 0 false false 0) 0 &&
     leaves (vec 0x1234 0x0080 false false 0x01) ⟨true, false, 0, 0⟩ (vec 0 0 false false 0) 0)
      = true := by
  decide

/-- The first instruction after reset is the one the fetch word gives (R102's example). -/
theorem test_withFetchWord_runs :
    step (State.reset.withFetchWord 24 0x20080) =
      .next ⟨⟨0, 0x0080#16, false, false, false, false, false, false⟩, []⟩ := by
  rfl

/-! ## The reference algorithms and the transcriber -/

/-- V-SRC-CORR, as integers at `F = 8`. -/
theorem test_encodeRef_corrected_scenario :
    encodeRef [0, 256, 0, -256] (128 : Int) =
      ([false, true, false, false], [-128, 0, -128, -256]) := by decide

/-- The decoder recurrence on V-SRC-CORR's bits gives its trace. -/
theorem test_decodeRef_corrected_scenario :
    decodeRef [false, true, false, false] (128 : Int) = [-128, 0, -128, -256] := by decide

/-- VE-2's call: `ENCODE [1.0, 0.0], #-5`. -/
theorem test_transcribe_encode :
    transcribe [.encode [.real 1 1, .real 0 1] (.int (-5))] =
      some [Inputs.issue 3 0, Inputs.issue 4 0, Inputs.issue 2 0xFFFB, Inputs.issue 1 0x0100,
        Inputs.issue 1 0x0000] := by decide

/-- P6's operand 0.875 is 0x00E0; a third and 32768 have no word (R67). -/
theorem test_transcribe_operands :
    (Operand.real 7 8).word? = some 0x00E0#16 ∧ (Operand.real 1 3 : Operand 16).word? = none ∧
      (Operand.int 32768 : Operand 16).word? = none ∧
      (Operand.int (-32768)).word? = some 0x8000#16 := by decide

/-- One edge with `rst = 1`, one without a command, then a command. -/
theorem test_transcribe_edges :
    transcribe [.reset, .idle, .rsv6] =
      some [⟨true, false, 0, 0⟩, ⟨false, false, 0, 0⟩, ⟨false, true, 6, 0⟩] := by decide

/-- Text as R67 and R68 spell it, with a comment, an empty line and VE-2's call. -/
theorem test_assemble_text :
    assemble "SAMPLE -1.0 ; down\nIDLE\n\nENCODE [1.0, 0.0], #-5".toList =
      some [Inputs.issue 1 0xFF00, Inputs.idle 16, Inputs.issue 3 0, Inputs.issue 4 0,
        Inputs.issue 2 0xFFFB, Inputs.issue 1 0x0100, Inputs.issue 1 0x0000] := by decide

/-- V-EMPTY's call, and a real that has no word. -/
theorem test_assemble_empty_call_and_refusal :
    assemble "ENCODE [], 0.5".toList =
        some [Inputs.issue 3 0, Inputs.issue 4 0, Inputs.issue 2 0x0080] ∧
      assemble "SAMPLE 0.3".toList = none := by decide

/-! ## Witnesses: the hypotheses of each statement are met -/

/-- A running block: ACC 0x0100, STEP 0x0080, READY. -/
def running : Regs 16 := vec 0x0100 0x0080 true false 0x01

/-- The running block at an edge. -/
def runningAt (i : Inputs 16) : State := edgeOf running i

theorem witness_running_inv : (runningAt (Inputs.idle 16)).Inv :=
  ⟨by decide, by decide, by decide⟩

theorem witness_running_ready : (runningAt (Inputs.idle 16)).regs.ready = true := by decide

theorem witness_CommandWordLayout :
    (runningAt (Inputs.issue 1 0x0200)).ports.rst = false ∧
      (runningAt (Inputs.issue 1 0x0200)).ports.cmdValid = true := by decide

theorem witness_DecodeEncodeRoundTrip : (Instr.rsv7 0xFFFF).wf = true := by decide

theorem witness_EncodeDecodeRoundTrip :
    decode 0x7FFFF#19 = decode (BitVec.ofNat 19 0x7FFFF) := by decide

theorem witness_WiderBitsRejected : 2 ^ 19 ≤ 0x80000 ∧ 0x7FFFF < 2 ^ 19 := by decide

theorem witness_StepRunsDecodedCommand :
    (Instr.clear 5).wf = true ∧ (runningAt (Inputs.issue 3 5)).ports.rst = false ∧
      (runningAt (Inputs.issue 3 5)).ports.cmdValid = true ∧
      decode ((runningAt (Inputs.issue 3 5)).ports.cmdOp ++
        (runningAt (Inputs.issue 3 5)).ports.cmdData) = .clear 5 := by decide

theorem witness_ResetEdgeWins :
    (State.drive State.reset [Inputs.reset 16, Inputs.reset 16]).ports.rst = true ∧
      (State.drive State.reset [Inputs.reset 16, Inputs.reset 16]).advance.ports.rst = true := by
  decide

theorem witness_EmptyScheduleWaits : State.reset.inputs = [] := by decide

theorem witness_ResetStateValues : (runningAt (Inputs.reset 16)).ports.rst = true := by decide

theorem witness_NopResult :
    (runningAt (Inputs.idle 16)).ports.rst = false ∧
      (runningAt (Inputs.idle 16)).ports.cmdValid = false := by decide

/-- SampleAcceptedResult, SampleBitIsStrictSignedCompare and SampleStepsOrSaturates: a READY state with
the invariant. -/
theorem witness_ready_and_inv :
    (runningAt (Inputs.issue 1 0x0200)).regs.ready = true ∧
      (runningAt (Inputs.issue 1 0x0200)).Inv :=
  ⟨by decide, ⟨by decide, by decide, by decide⟩⟩

/-- The unclamped result after a SAMPLE of these registers, by the bit the SAMPLE leaves. -/
def unclampedBy (r : Regs 16) (data : Word) : Int :=
  if (r.sample data).bitQ = true then sint r.acc + sint r.step else sint r.acc - sint r.step

/-- SampleStepsOrSaturates at the bounds: 32767, 32768, -32768 and -32769, each from a READY state. -/
theorem witness_SampleStepsOrSaturates :
    (vec 0x7F7F 0x0080 false false 0).ready = true ∧
      unclampedBy (vec 0x7F7F 0x0080 false false 0) 0x7FFF = 32767 ∧
    (vec 0x7F80 0x0080 false false 0).ready = true ∧
      unclampedBy (vec 0x7F80 0x0080 false false 0) 0x7FFF = 32768 ∧
    (vec 0x8080 0x0080 false false 0).ready = true ∧
      unclampedBy (vec 0x8080 0x0080 false false 0) 0x8000 = -32768 ∧
    (vec 0x807F 0x0080 false false 0).ready = true ∧
      unclampedBy (vec 0x807F 0x0080 false false 0) 0x8000 = -32769 := by decide

/-- ReferenceMovesByExactlyTheStep: an update in range with SAT already 1, and one out of range. -/
theorem witness_ReferenceMovesByExactlyTheStep :
    (vec 0x0100 0x0080 false false 0x10).Inv ∧
      (vec 0x0100 0x0080 false false 0x10).ready = true ∧
      (vec 0x0100 0x0080 false false 0x10).sat = true ∧
      unclampedBy (vec 0x0100 0x0080 false false 0x10) 0x0200 = 384 ∧
      (vec 0x7F80 0x0080 false false 0).Inv ∧ (vec 0x7F80 0x0080 false false 0).ready = true ∧
      unclampedBy (vec 0x7F80 0x0080 false false 0) 0x7FFF = 32768 :=
  ⟨⟨by decide, by decide, by decide⟩, by decide, by decide, by decide,
    ⟨by decide, by decide, by decide⟩, by decide, by decide⟩

theorem witness_SampleRefusedResult :
    State.reset.regs.step = 0 ∧ (vec 0 0x0080 false false 0x02).paramErr = true := by decide

theorem witness_SetStepValidResult : 1 ≤ sint 0x0001#16 := by decide

theorem witness_SetStepInvalidResult :
    sint 0x0000#16 ≤ 0 ∧ (0x8000#16).getLsbD 15 = true ∧ 1 ≤ sint 0x7FFF#16 ∧
      (vec 0 0x0080 false false 0x02).paramErr = true ∧
      (runningAt (Inputs.reset 16)).ports.rst = true ∧
      (runningAt (Inputs.idle 16)).regs.step = 0x0080#16 := by decide

theorem witness_ClearFlagsResult :
    (runningAt (Inputs.idle 16)).regs.step ≠ 0 ∧ State.reset.regs.step = 0 := by decide

theorem witness_ReservedResult :
    (Instr.rsv6 7 = .rsv5 7 ∨ Instr.rsv6 7 = .rsv6 7 ∨ Instr.rsv6 7 = .rsv7 7) := by decide

/-- The running block after an accepted SAMPLE 0x0200. -/
def sampled : State := ⟨⟨0x0180#16, 0x0080#16, true, true, false, false, false, false⟩, []⟩

/-- An accepted SAMPLE: ReadyIsStepAndNoParamErr, and the SAMPLE clauses of
AccWrittenOnlyBySampleClearReset and BitHeldBetweenSamples. -/
theorem witness_accepted_edge :
    step (runningAt (Inputs.issue 1 0x0200)) = .next sampled ∧ sampled.regs.validQ = true ∧
      (runningAt (Inputs.issue 1 0x0200)).ports.performs 1 = true ∧
      (runningAt (Inputs.issue 1 0x0200)).regs.ready = true :=
  ⟨rfl, by decide, by decide, by decide⟩

/-- A CLEAR edge: the CLEAR clauses of AccWrittenOnlyBySampleClearReset and BitHeldBetweenSamples. -/
theorem witness_clear_edge :
    step (runningAt (Inputs.issue 3 0)) =
      .next ⟨⟨0, 0x0080#16, false, false, false, false, false, false⟩, []⟩ ∧
      (runningAt (Inputs.issue 3 0)).ports.performs 3 = true := ⟨rfl, by decide⟩

/-- A reset edge: the reset clauses of the statements on ACC, STEP and BIT_Q. -/
theorem witness_reset_edge :
    step (runningAt (Inputs.reset 16)) = .next State.reset ∧
      (runningAt (Inputs.reset 16)).ports.rst = true := ⟨rfl, by decide⟩

/-- An edge that writes none of ACC, STEP and BIT_Q: the last clauses of the same statements. -/
theorem witness_other_edge :
    step (runningAt (Inputs.issue 5 0)) = .next ⟨vec 0x0100 0x0080 true false 0x09, []⟩ ∧
      (runningAt (Inputs.issue 5 0)).ports.rst = false ∧
      (runningAt (Inputs.issue 5 0)).ports.performs 3 = false ∧
      ((runningAt (Inputs.issue 5 0)).ports.performs 1 &&
        (runningAt (Inputs.issue 5 0)).regs.ready) = false ∧
      ¬ ((runningAt (Inputs.issue 5 0)).ports.performs 2 = true ∧
        1 ≤ sint (runningAt (Inputs.issue 5 0)).ports.cmdData) :=
  ⟨rfl, by decide, by decide, by decide, by decide⟩

/-- A valid SET_STEP edge, at the smallest step, and a step that stays 0: StepWrittenOnlyBySetStepReset. -/
theorem witness_StepWrittenOnlyBySetStepReset :
    step (edgeOf (Regs.reset 16) (Inputs.issue 2 1)) =
      .next ⟨vec 0 0x0001 false false 0, []⟩ ∧
      (edgeOf (Regs.reset 16) (Inputs.issue 2 1)).ports.performs 2 = true ∧
      1 ≤ sint (edgeOf (Regs.reset 16) (Inputs.issue 2 1)).ports.cmdData ∧
      0 ≤ sint (edgeOf (Regs.reset 16) (Inputs.issue 2 1)).regs.step ∧
      step (edgeOf (Regs.reset 16) (Inputs.issue 0 0)) = .next ⟨vec 0 0 false false 0, []⟩ :=
  ⟨rfl, by decide, by decide, by decide, rfl⟩

/-- StickyFlagsSetAndCleared: a refused SAMPLE sets SAMPLE_REJ; and a step of the same registers with
other SAMPLE_REJ, ILL_CMD and SAT. -/
theorem witness_StickyFlagsSetAndCleared :
    step (edgeOf (Regs.reset 16) (Inputs.issue 1 0)) = .next ⟨vec 0 0 false false 0x04, []⟩ ∧
      step (edgeOf (vec 0 0 false false 0x18) (Inputs.issue 1 0)) =
        .next ⟨vec 0 0 false false 0x1C, []⟩ := ⟨rfl, rfl⟩

/-- AtMostOneErrorPerEdge: an edge that raises SAMPLE_REJ. -/
theorem witness_AtMostOneErrorPerEdge :
    step (edgeOf (Regs.reset 16) (Inputs.issue 1 0)) = .next ⟨vec 0 0 false false 0x04, []⟩ ∧
      (Regs.reset 16).flag .sampleRej = false ∧
      (vec 0 0 false false 0x04).flag .sampleRej = true := ⟨rfl, by decide, by decide⟩

theorem witness_StepKeepsInvariant : State.reset.Inv ∧ sampled.Inv :=
  ⟨⟨by decide, by decide, by decide⟩, ⟨by decide, by decide, by decide⟩⟩

theorem witness_ConfigurationCommandsIdempotent :
    (Instr.setStep 0 = .setStep 0 ∨ Instr.setStep 0 = .clear 0 ∨ Instr.setStep 0 = .clearFlags 0 ∨
      Instr.setStep 0 = .nop 0) := by decide

theorem witness_NextEdgeSeesEffect :
    1 ≤ sint 0x0001#16 ∧ (runningAt (Inputs.idle 16)).regs.ready = true ∧
      (runningAt (Inputs.idle 16)).regs.step ≠ 0 := by decide

theorem witness_SintIsTwosComplement :
    2 ≤ 2 ∧ minInt 2 ≤ -2 ∧ (-2 : Int) ≤ maxInt 2 ∧ minInt 2 ≤ 1 ∧ 1 ≤ maxInt 2 := by decide

/-- The registers of a two-bit block: ACC 01, STEP 01, READY. -/
def narrow : Regs 2 := ⟨0b01#2, 0b01#2, true, false, false, false, false, false⟩

/-- R60 and R61 at `W = 2`: SAMPLE 01 is the word `{001, 01}`. -/
theorem test_decode_at_width_two :
    decodeCommand (W := 2) 0b00101#5 = ⟨.sample, 0b01#2⟩ ∧
      encodeCommand (W := 2) ⟨.rsv7, 0b10#2⟩ = 0b11110#5 := by decide

/-- R129 at `W = 2`: the sample 01 equals ACC = 01, so the bit is DOWN and ACC falls to 00. -/
theorem test_step_at_width_two :
    stepAt ⟨narrow, [Inputs.issue 1 0b01#2]⟩ =
      .next ⟨⟨0b00#2, 0b01#2, false, true, false, false, false, false⟩, []⟩ := rfl

/-- CommandsAtEveryWidth: READY of either value, a valid and an invalid step. -/
theorem witness_CommandsAtEveryWidth :
    narrow.ready = true ∧ (Regs.reset 2).ready = false ∧ 1 ≤ sint 0b01#2 ∧ sint 0b00#2 ≤ 0 := by
  decide

theorem witness_StepKeepsInvariantAtEveryWidth :
    (⟨narrow, [Inputs.issue 1 0b01#2]⟩ : StateAt 2).regs.Inv := ⟨by decide, by decide, by decide⟩

/-- FrameAtEveryWidth: a two-bit frame whose one sample 01 lifts ACC from 00 to 01. -/
theorem witness_FrameAtEveryWidth :
    2 ≤ 2 ∧ beginsFrame (Inputs.issue (W := 2) 3 0) = true ∧
      beginsFrame (Inputs.issue 1 0b01#2) = false ∧
      (narrow.next (Inputs.issue 3 0)).accepted [Inputs.issue 1 0b01#2] = [(0b01#2, 0b01#2)] ∧
      (narrow.next (Inputs.issue 3 0)).clampFree [Inputs.issue 1 0b01#2] = true := by decide

theorem witness_TranscriberAtEveryWidth : Config.wf 2 1 = true ∧ (2 : Nat) ≠ 0 := by decide

theorem witness_AdderHoldsExactResult : 2 ≤ 2 ∧ 0 ≤ sint 0b01#2 := by decide

theorem witness_SampleAtEveryWidth :
    2 ≤ 2 ∧ (⟨0b11#2, 0b01#2, false, false, false, false, false, false⟩ : Regs 2).ready = true := by
  decide

theorem witness_TieGivesDown :
    (runningAt (Inputs.issue 1 0x0100)).Inv ∧
      (runningAt (Inputs.issue 1 0x0100)).regs.ready = true ∧
      sint 0x0100#16 = sint (runningAt (Inputs.issue 1 0x0100)).regs.acc :=
  ⟨⟨by decide, by decide, by decide⟩, by decide, by decide⟩

/-- CornersOfSampleAtTheBounds, clauses (b), (c) and (h): READY states with the invariant at MAX and
at MIN, a sample above MIN, and the sample MIN. -/
theorem witness_CornersOfSampleAtTheBounds :
    (vec 0x7FFF 0x0080 false false 0).Inv ∧ (vec 0x7FFF 0x0080 false false 0).ready = true ∧
      sint (vec 0x7FFF 0x0080 false false 0).acc = 32767 ∧
      (vec 0x8000 0x0080 false false 0).Inv ∧ (vec 0x8000 0x0080 false false 0).ready = true ∧
      sint (vec 0x8000 0x0080 false false 0).acc = -32768 ∧ sint 0x8001#16 ≠ -32768 ∧
      sint 0x8000#16 = -32768 :=
  ⟨⟨by decide, by decide, by decide⟩, by decide, by decide, ⟨by decide, by decide, by decide⟩,
    by decide, by decide, by decide, by decide⟩

/-- CornersOfSampleAtTheBounds, clauses (e) and (f): an UP that lands on MAX, a DOWN on MIN. -/
theorem witness_corner_exact_landings :
    ((vec 0x4000 0x3FFF false false 0).sample 0x7FFF).bitQ = true ∧
      sint (vec 0x4000 0x3FFF false false 0).acc + sint (vec 0x4000 0x3FFF false false 0).step
        = 32767 ∧
      ((vec 0xC000 0x4000 false false 0).sample 0x8000).bitQ = false ∧
      sint (vec 0xC000 0x4000 false false 0).acc - sint (vec 0xC000 0x4000 false false 0).step
        = -32768 := by decide

/-- A frame: CLEAR, then an accepted SAMPLE, a NOP and a reserved command. -/
def frameBody : List (Inputs 16) := [Inputs.issue 1 0x0040, Inputs.issue 0 0, Inputs.issue 6 0]

/-- FrameIsReferenceEncoder and FrameTraceIsDecoderRecurrence: every premise, and the two ways to
know from SAT that no clamp acted, on a frame with an accepted SAMPLE. -/
theorem witness_frame_premises :
    beginsFrame (Inputs.issue (W := 16) 3 0) = true ∧ (∀ i ∈ frameBody, beginsFrame i = false) ∧
      ((running.next (Inputs.issue 3 0)).accepted frameBody = [(0x0040#16, 0x0080#16)]) ∧
      (∀ o ∈ observe 4 (⟨running, Inputs.issue 3 0 :: frameBody⟩ : State),
        o.outValid = true → o.satBit = false) ∧
      (∀ i ∈ frameBody, i.performs 4 = false) ∧
      (∀ o ∈ (observe 4 (⟨running, Inputs.issue 3 0 :: frameBody⟩ : State)).getLast?,
        o.satBit = false) := by decide

/-- The same statements by the first way: a frame begun by CLEAR with SAT = 1 kept from before, in which
nothing clamps. Its accepted SAMPLE shows SAT = 1, so neither other way covers it. -/
theorem witness_frame_entered_with_sat :
    ((vec 0x0100 0x0080 true false 0x11).next (Inputs.issue 3 0)).clampFree frameBody = true ∧
      ((vec 0x0100 0x0080 true false 0x11).next (Inputs.issue 3 0)).accepted frameBody =
        [(0x0040#16, 0x0080#16)] ∧
      ∃ o ∈ observe 4 (⟨vec 0x0100 0x0080 true false 0x11, Inputs.issue 3 0 :: frameBody⟩ : State),
        o.outValid = true ∧ o.satBit = true := by decide

/-- EncodeCallIsReferenceEncoder and EncodeIgnoresPriorState: a call with a valid step whose last cycle
shows SAT = 0. -/
theorem witness_encode_premises :
    1 ≤ sint 0x0080#16 ∧
      ∀ o ∈ (observe 4 (State.drive State.reset (encodeFrame [0x0040#16] 0x0080#16))).getLast?,
        o.satBit = false := by decide

theorem witness_FailedCallHasNoOutput : sint 0x0000#16 ≤ 0 ∧ sint 0xFFFB#16 ≤ 0 := by decide

theorem witness_EmptyFrameHasNoOutput :
    (∀ i ∈ encodeFrame [] 0x0080#16, i.performs 1 = false) ∧ 1 ≤ sint 0x0080#16 := by decide

theorem witness_OtherCommandsKeepTheReference :
    (runningAt (Inputs.issue 4 0)).ports.rst = false ∧
      (runningAt (Inputs.issue 4 0)).ports.cmdOp = 4 ∧
      (runningAt (Inputs.idle 16)).ports.cmdValid = false ∧
      (runningAt (Inputs.issue 4 0)).regs.paramErr = false := by decide

theorem witness_TranscriberTakesRepresentableOperands : (8 : Nat) ≠ 0 := by decide

theorem witness_LinesDriveTheirEdges :
    (Operand.hex 0x0100).word? = some 0x0100#16 ∧
      (Operand.int 32768 : Operand 16).word? = none ∧
      [Operand.real 1 2, .int 3].mapM Operand.word? = some [0x0080#16, 0x0003#16] ∧
      ∃ x ∈ [(Operand.real 1 2 : Operand 16), .real 1 3], x.word? = none := by decide

end Sys2Proof.Tests
end

/-!
PROOFS. What one step of the machine is, at every width and on this hardware, as the next registers of
10_state.md R40; what R40's case over `op` can do, said once; and from that the statements on the step,
the invariant and the eight commands.
-/

namespace Sys2Proof.Machine

/-! ## The step as the next registers -/

theorem Regs.perform_eq_effect {W : Nat} (r : Regs W) (op : BitVec 3) (data : BitVec W) :
    r.perform op data = r.effect ⟨Opcode.ofBits op, data⟩ := by
  rw [Regs.effect_eq_perform, Opcode.bits_ofBits]

theorem Regs.next_of_rst {W : Nat} (r : Regs W) {i : Inputs W} (h : i.rst = true) :
    r.next i = Regs.reset W := if_pos h

theorem Regs.next_of_not_rst {W : Nat} (r : Regs W) {i : Inputs W} (h : i.rst = false) :
    r.next i = r.perform i.op i.cmdData := if_neg (by simp [h])

/-- At every width the edge's decode and dispatch come to R40's `Step(S, I)` on the registers, and the
host moves on by one. -/
theorem stepAt_eq {W : Nat} (s : StateAt W) :
    stepAt s = .next (s.advance.withRegs (s.regs.next s.ports)) := by
  cases h : s.ports.rst with
  | true => simp [stepAt, h, completeAt_eq, Regs.next_of_rst]
  | false =>
    simp [stepAt, h, execAt_eq, decodeCommand_word, Regs.next_of_not_rst, Regs.perform_eq_effect]

/-- Each of the eight commands answers its effect on the registers, and touches nothing else. -/
theorem exec_eq (i : Instr) (s : State) :
    exec i s = .next (s.withRegs (s.regs.effect i.command)) := by
  cases i <;> rfl

/-- The same of this hardware's step. -/
theorem step_eq (s : State) : step s = .next (s.advance.withRegs (s.regs.next s.ports)) := by
  cases h : s.ports.rst with
  | true => simp [step, h, resetEdge_eq, Regs.next_of_rst]
  | false =>
    simp [step, h, exec_eq, Inputs.command, decode, decodeCommand_word, Regs.next_of_not_rst,
      Regs.perform_eq_effect]

/-- Settles O12: `exec` and `step` are each one `Outcome.next`. -/
theorem stepIsTotal : Obligations.StepIsTotal :=
  ⟨fun i s => ⟨_, exec_eq i s, rfl⟩, fun s => ⟨_, step_eq s, rfl⟩⟩

/-! ## This hardware's machine and the machine of width 16 -/

/-- This hardware's state has no field of its own. -/
theorem State.eq_iff_toStateAt {s t : State} : s = t ↔ s.toStateAt = t.toStateAt :=
  ⟨congrArg State.toStateAt, fun h => by cases s; cases t; exact congrArg State.mk h⟩

theorem step_next_iff_stepAt (s t : State) :
    step s = .next t ↔ stepAt s.toStateAt = .next t.toStateAt := by
  simp only [step_eq, stepAt_eq, Host.Outcome.next.injEq, State.eq_iff_toStateAt]
  rfl

theorem exec_next_iff_execAt (i : Instr) (s t : State) :
    exec i s = .next t ↔ execAt i.command s.toStateAt = .next t.toStateAt := by
  simp only [exec_eq, execAt_eq, Host.Outcome.next.injEq, State.eq_iff_toStateAt,
    State.withRegs_toStateAt]

theorem observeAt_succ {W : Nat} (n : Nat) (s : StateAt W) :
    observeAt (n + 1) s = (s.regs.next s.ports).outputs ::
      observeAt n (s.advance.withRegs (s.regs.next s.ports)) := by
  simp only [observeAt, observeBy, stepAt_eq, StateAt.withRegs_regs]

theorem observe_succ (n : Nat) (s : State) :
    observe (n + 1) s = (s.regs.next s.ports).outputs ::
      observe n (s.advance.withRegs (s.regs.next s.ports)) := by
  simp only [observe, observeBy, step_eq, State.withRegs_toStateAt, StateAt.withRegs_regs]

theorem observe_eq_observeAt (n : Nat) (s : State) : observe n s = observeAt n s.toStateAt := by
  induction n generalizing s with
  | zero => rfl
  | succ n ih =>
    rw [observe_succ, observeAt_succ, ih]
    rfl

/-- Settles O54: `step` and `exec` answer the same registers and inputs as `stepAt` and `execAt`, so
the runs agree edge by edge; the codec and the assembler are those of width 16 by definition. -/
theorem machineIsWidthMachineAtSixteen : Obligations.MachineIsWidthMachineAtSixteen :=
  ⟨step_next_iff_stepAt, exec_next_iff_execAt, rfl, observe_eq_observeAt,
    fun c => Command.instr_command (decodeCommand c), fun _ => rfl, fun _ => rfl⟩

/-! ## What a command can do -/

/-- R40's case over `op`: which effect the registers take, and for which opcode. -/
theorem Regs.perform_cases {W : Nat} (r : Regs W) (op : BitVec 3) (data : BitVec W) :
    (op = 0b000#3 ∧ r.perform op data = r.nop) ∨
    (op = 0b001#3 ∧ r.perform op data = r.sample data) ∨
    (op = 0b010#3 ∧ r.perform op data = r.setStep data) ∨
    (op = 0b011#3 ∧ r.perform op data = r.clear) ∨
    (op = 0b100#3 ∧ r.perform op data = r.clearFlags) ∨
    ((op = 0b101#3 ∨ op = 0b110#3 ∨ op = 0b111#3) ∧ r.perform op data = r.reserved) := by
  rw [Regs.perform_eq_effect]
  obtain ⟨o, rfl⟩ : ∃ o : Opcode, o.bits = op := ⟨_, Opcode.bits_ofBits op⟩
  rw [Opcode.ofBits_bits]
  cases o <;> simp [Opcode.bits, Regs.effect]

theorem Regs.sample_cases {W : Nat} (r : Regs W) (data : BitVec W) :
    (r.ready = true ∧ r.sample data = r.sampleAccepted data) ∨
    (r.ready = false ∧ r.sample data = r.sampleRefused) := by
  cases h : r.ready with
  | true => exact .inl ⟨rfl, Regs.sample_of_ready h data⟩
  | false => exact .inr ⟨rfl, Regs.sample_of_not_ready h data⟩

/-! ## The invariant -/

theorem Regs.reset_inv (W : Nat) : (Regs.reset W).Inv where
  step_nonneg := by simp [sint]
  strobe_ready := by simp
  unconfigured_quiet := by simp

/-- Registers that keep STEP, drop the strobe and set none of ACC, BIT_Q and SAT meet the invariant
where it held before. -/
theorem Regs.Inv.of_strobe_dropped {W : Nat} {r r' : Regs W} (h : r.Inv) (hstep : r'.step = r.step)
    (hvalid : r'.validQ = false) (hacc : r.acc = 0 → r'.acc = 0)
    (hbit : r.bitQ = false → r'.bitQ = false) (hsat : r.sat = false → r'.sat = false) :
    r'.Inv where
  step_nonneg := hstep ▸ h.step_nonneg
  strobe_ready := by simp [hvalid]
  unconfigured_quiet h0 := by
    obtain ⟨acc0, bit0, -, sat0⟩ := h.unconfigured_quiet (hstep ▸ h0)
    exact ⟨hacc acc0, hbit bit0, hvalid, hsat sat0⟩

theorem Regs.sampleAccepted_inv {W : Nat} {r : Regs W} (h : r.Inv) (hr : r.ready = true)
    (data : BitVec W) : (r.sampleAccepted data).Inv := by
  rw [Regs.sampleAccepted_eq]
  exact ⟨h.step_nonneg, fun _ => hr, fun h0 => absurd h0 (r.ready_iff.mp hr).1⟩

theorem Regs.sample_inv {W : Nat} {r : Regs W} (h : r.Inv) (data : BitVec W) :
    (r.sample data).Inv := by
  obtain ⟨hr, hs⟩ | ⟨-, hs⟩ := r.sample_cases data
  · exact hs ▸ Regs.sampleAccepted_inv h hr data
  · rw [hs, Regs.sampleRefused_eq]
    exact h.of_strobe_dropped rfl rfl id id id

/-- A valid operand is a positive STEP, so the block is no longer unconfigured; an invalid one is not
written. -/
theorem Regs.setStep_inv {W : Nat} {r : Regs W} (h : r.Inv) (data : BitVec W) :
    (r.setStep data).Inv := by
  rcases lt_or_ge 0 (sint data) with hpos | hneg
  · rw [Regs.setStep_of_valid r hpos]
    exact ⟨hpos.le, nofun, fun h0 => by simp [show data = 0 from h0, sint] at hpos⟩
  · rw [Regs.setStep_of_invalid r hneg]
    exact h.of_strobe_dropped rfl rfl id id id

theorem Regs.perform_inv {W : Nat} {r : Regs W} (h : r.Inv) (op : BitVec 3) (data : BitVec W) :
    (r.perform op data).Inv := by
  obtain ⟨-, hp⟩ | ⟨-, hp⟩ | ⟨-, hp⟩ | ⟨-, hp⟩ | ⟨-, hp⟩ | ⟨-, hp⟩ := r.perform_cases op data <;>
    rw [hp]
  · exact h.of_strobe_dropped rfl rfl id id id
  · exact Regs.sample_inv h data
  · exact Regs.setStep_inv h data
  · exact h.of_strobe_dropped rfl rfl (fun _ => rfl) (fun _ => rfl) id
  · exact h.of_strobe_dropped rfl rfl id id (fun _ => rfl)
  · exact h.of_strobe_dropped rfl rfl id id id

/-- The invariant is kept by R40's `Step(S, I)`, whatever the ports carry. -/
theorem Regs.next_inv {W : Nat} {r : Regs W} (h : r.Inv) (i : Inputs W) : (r.next i).Inv := by
  cases hrst : i.rst with
  | true => exact Regs.next_of_rst r hrst ▸ Regs.reset_inv W
  | false => exact Regs.next_of_not_rst r hrst ▸ Regs.perform_inv h i.op i.cmdData

/-- Settles O58: the step is R40's `Step(S, I)`, which keeps the invariant command by command. -/
theorem stepKeepsInvariantAtEveryWidth : Obligations.StepKeepsInvariantAtEveryWidth :=
  fun W => ⟨Regs.reset_inv W, fun s h => ⟨_, stepAt_eq s, Regs.next_inv h s.ports⟩⟩

/-! ## The commands, every register named -/

/-- The clamp moved the result exactly where it is not the result. -/
theorem saturates_eq_decide (W : Nat) (t : Int) : saturates W t = decide (clamp W t ≠ t) := by
  rw [Bool.eq_iff_iff]
  simp [saturates]

/-- An accepted SAMPLE in the rule's own terms (40_datapath.md R81): the compare, the result `t`
before the clamp, and the clamp as `max` and `min` with the bounds in powers of two. -/
theorem Regs.sampleAccepted_eq_max_min {W : Nat} (r : Regs W) (data : BitVec W) :
    let t : Int := if sint r.acc < sint data then sint r.acc + sint r.step
      else sint r.acc - sint r.step
    let c : Int := max (-2 ^ (W - 1)) (min (2 ^ (W - 1) - 1) t)
    r.sampleAccepted data =
      { r with
        acc := BitVec.ofInt W c
        bitQ := decide (sint r.acc < sint data)
        validQ := true
        sat := r.sat || decide (c ≠ t) } := by
  simp only [Regs.sampleAccepted_eq, saturates_eq_decide, clamp_eq_max_min, unclamped_comparator]
  rfl

/-- A command answers the registers its effect is known to be. -/
theorem execAt_of_effect {W : Nat} {c : Command W} {s : StateAt W} {r : Regs W}
    (h : s.regs.effect c = r) : execAt c s = .next (s.withRegs r) := by
  rw [execAt_eq, h]

/-- Settles O57: each command's effect, from the lemma that names every register it leaves. -/
theorem commandsAtEveryWidth : Obligations.CommandsAtEveryWidth := by
  intro W data s
  refine ⟨rfl, fun hr => ?_, fun hr => ?_, fun hv => ?_, fun hv => ?_, rfl, rfl, ?_⟩
  · exact execAt_of_effect
      ((Regs.sample_of_ready hr data).trans (s.regs.sampleAccepted_eq_max_min data))
  · exact execAt_of_effect (Regs.sample_of_not_ready hr data)
  · exact execAt_of_effect (s.regs.setStep_of_valid hv)
  · exact execAt_of_effect (s.regs.setStep_of_invalid hv)
  · rintro o (rfl | rfl | rfl) <;> rfl

end Sys2Proof.Machine

/-!
PROOFS. The integers and the numbers that words stand for (00_scope.md R11, R15), the result of an
accepted SAMPLE read as an integer, and the words the transcriber takes (30_encoding.md R67).
-/

namespace Sys2Proof.Machine

/-! ## Two's complement -/

theorem sint_eq_toNat {W : Nat} (v : BitVec W) :
    sint v = if v.getLsbD (W - 1) = true then (v.toNat : Int) - 2 ^ W else (v.toNat : Int) := by
  rw [sint, BitVec.toInt_eq_msb_cond, BitVec.msb_eq_getLsbD_last]
  push_cast
  rfl

/-- Settles O37: the two's complement reading, its range, and the round trip through `word_W`. -/
theorem sintIsTwosComplement : Obligations.SintIsTwosComplement :=
  ⟨fun W hW => ⟨fun v => ⟨sint_eq_toNat v, minInt_le_sint v, sint_le_maxInt v⟩,
    fun i lo hi => sint_wordOf_of_range (by omega) lo hi⟩, minInt_config, maxInt_config⟩

/-! ## An accepted SAMPLE as an integer -/

theorem Regs.next_issue_sample {W : Nat} {r : Regs W} (hr : r.ready = true) (data : BitVec W) :
    r.next (Inputs.issue 0b001#3 data) = r.sampleAccepted data :=
  Regs.sample_of_ready hr data

/-- Settles O39: the registers of an accepted SAMPLE, with the new reference read back from its word. -/
theorem sampleAtEveryWidth : Obligations.SampleAtEveryWidth := by
  intro W r data hW hr t r'
  have hr' : r' = r.sampleAccepted data := Regs.next_issue_sample hr data
  rw [hr', Regs.sampleAccepted_eq, unclamped_comparator]
  refine ⟨comparator_iff data r.acc, rfl, ?_, ?_, rfl, rfl, rfl, rfl⟩
  · exact (sint_wordOf_clamp (by omega) t).trans (clamp_eq_max_min W t)
  · exact Bool.or_eq_true_iff.trans (or_congr_right (saturates_iff W t))

/-! ## The numbers words stand for -/

theorem value_mul_pow {W : Nat} (F : Nat) (v : BitVec W) : value F v * 2 ^ F = (sint v : ℚ) :=
  div_mul_cancel₀ _ (by positivity)

theorem value_lt_value_iff {W : Nat} (F : Nat) (a b : BitVec W) :
    value F a < value F b ↔ sint a < sint b := by
  rw [value, value, div_lt_div_iff_of_pos_right (by positivity), Int.cast_lt]

/-- Settles O40: one positive denominator for every word, so order, sums and differences are those of
the integers. -/
theorem fixedPointReadingIsExact : Obligations.FixedPointReadingIsExact := by
  intro W F a b
  refine ⟨value_lt_value_iff F b a, ?_, ?_, value_mul_pow F a⟩
  · rw [value, value, Int.cast_add, add_div]
  · rw [value, value, Int.cast_sub, sub_div]

/-! ## The transcriber's operands -/

theorem inRange_iff (W : Nat) (i : Int) : inRange W i = true ↔ minInt W ≤ i ∧ i ≤ maxInt W := by
  simp [inRange]

/-- The word an integer is transcribed to is the one whose value it is. -/
theorem wordOf?_eq_some_iff {W : Nat} (hW : 0 < W) (i : Int) (w : BitVec W) :
    wordOf? W i = some w ↔ sint w = i := by
  rw [wordOf?, Option.ite_none_right_eq_some, Option.some.injEq, inRange_iff]
  constructor
  · rintro ⟨⟨lo, hi⟩, rfl⟩
    exact sint_wordOf_of_range hW lo hi
  · rintro rfl
    have hw : minInt W ≤ sint w ∧ sint w ≤ maxInt W := ⟨minInt_le_sint w, sint_le_maxInt w⟩
    exact ⟨hw, sint_inj (sint_wordOf_of_range hW hw.1 hw.2)⟩

/-- A word stands for a fraction where cross-multiplying gives an equation of integers. -/
theorem value_eq_div_iff {W : Nat} (F : Nat) (w : BitVec W) (num : Int) {den : Nat} (hden : den ≠ 0) :
    value F w = (num : ℚ) / (den : ℚ) ↔ sint w * den = num * 2 ^ F := by
  rw [value, div_eq_div_iff (by positivity) (by exact_mod_cast hden)]
  exact_mod_cast Iff.rfl

/-- An integer solves the cross-multiplied equation where the division is exact and it is the
quotient. -/
theorem mul_eq_iff_emod_ediv {den : Int} (hden : den ≠ 0) (x n : Int) :
    x * den = n ↔ n % den = 0 ∧ x = n / den := by
  constructor
  · rintro rfl
    exact ⟨Int.mul_emod_left x den, (Int.mul_ediv_cancel x hden).symm⟩
  · rintro ⟨hmod, rfl⟩
    exact Int.ediv_mul_cancel (Int.dvd_of_emod_eq_zero hmod)

/-- A real operand is transcribed to the word that stands for the same number, without rounding. -/
theorem wordAt?_real_eq_some_iff {W : Nat} (hW : 0 < W) (F : Nat) (num : Int) {den : Nat}
    (hden : den ≠ 0) (w : BitVec W) :
    (Operand.real num den).wordAt? F = some w ↔ value F w = (num : ℚ) / (den : ℚ) := by
  rw [value_eq_div_iff F w num hden, mul_eq_iff_emod_ediv (by exact_mod_cast hden),
    Operand.wordAt?, Option.ite_none_right_eq_some, wordOf?_eq_some_iff hW]
  simp only [ne_eq, hden, not_false_eq_true, true_and]

/-- Settles O60: each operand gives the word that stands for it, so it is refused exactly where there
is none. -/
theorem transcriberAtEveryWidth : Obligations.TranscriberAtEveryWidth := by
  intro W F hwf
  have hW : 0 < W := by
    simp only [Config.wf, Bool.and_eq_true, decide_eq_true_eq] at hwf
    omega
  refine ⟨fun _ => rfl, wordOf?_eq_some_iff hW, fun i => ?_,
    fun num den w hden => wordAt?_real_eq_some_iff hW F num hden w, fun num den hden => ?_⟩
  · simp only [Option.eq_none_iff_forall_ne_some, ne_eq, Operand.wordAt?, wordOf?_eq_some_iff hW]
  · simp only [Option.eq_none_iff_forall_ne_some, ne_eq, wordAt?_real_eq_some_iff hW F num hden]

end Sys2Proof.Machine

/-!
PROOFS. What one edge of a frame does to the reference and the strobe (42_frame.md R120), and from it, by
induction over the edges, that a frame without a clamp runs the source's encoder and decoder recurrence
(R124, R125).
-/

namespace Sys2Proof.Machine

/-! ## One edge of a frame -/

theorem Regs.accepts_iff {W : Nat} (r : Regs W) (i : Inputs W) :
    r.accepts i = true ↔ i.rst = false ∧ i.op = 0b001#3 ∧ r.ready = true := by
  simp [Regs.accepts, and_assoc]

theorem beginsFrame_iff {W : Nat} (i : Inputs W) :
    beginsFrame i = true ↔ i.rst = true ∨ i.op = 0b011#3 := by
  simp [beginsFrame]

theorem Regs.next_of_accepts {W : Nat} {r : Regs W} {i : Inputs W} (h : r.accepts i = true) :
    r.next i = r.sampleAccepted i.cmdData := by
  obtain ⟨hrst, hop, hr⟩ := (r.accepts_iff i).mp h
  rw [Regs.next_of_not_rst r hrst, hop]
  exact Regs.sample_of_ready hr i.cmdData

/-- A frame begins with the reference at the seed 0 and no output. -/
theorem Regs.next_of_beginsFrame {W : Nat} (r : Regs W) {i : Inputs W} (h : beginsFrame i = true) :
    (r.next i).acc = 0 ∧ (r.next i).bitQ = false ∧ (r.next i).validQ = false := by
  cases hrst : i.rst with
  | true => rw [Regs.next_of_rst r hrst]; exact ⟨rfl, rfl, rfl⟩
  | false =>
    have hop : i.op = 0b011#3 := by simpa [hrst] using (beginsFrame_iff i).mp h
    rw [Regs.next_of_not_rst r hrst, hop]
    exact ⟨rfl, rfl, rfl⟩

/-- An edge inside a frame that accepts no SAMPLE holds the reference and the bit, and shows no
output. -/
theorem Regs.next_held {W : Nat} {r : Regs W} {i : Inputs W} (hb : beginsFrame i = false)
    (ha : r.accepts i = false) :
    (r.next i).acc = r.acc ∧ (r.next i).bitQ = r.bitQ ∧ (r.next i).validQ = false := by
  obtain ⟨hrst, hclear⟩ : i.rst = false ∧ i.op ≠ 0b011#3 := by simpa [beginsFrame] using hb
  rw [Regs.next_of_not_rst r hrst]
  obtain ⟨-, hp⟩ | ⟨hop, hp⟩ | ⟨-, hp⟩ | ⟨hop, -⟩ | ⟨-, hp⟩ | ⟨-, hp⟩ :=
    r.perform_cases i.op i.cmdData
  · rw [hp]; exact ⟨rfl, rfl, rfl⟩
  · have hr : r.ready = false := by simpa [Regs.accepts, hrst, hop] using ha
    rw [hp, Regs.sample_of_not_ready hr]
    exact ⟨rfl, rfl, rfl⟩
  · rw [hp, Regs.setStep]
    split <;> exact ⟨rfl, rfl, rfl⟩
  · exact absurd hop hclear
  · rw [hp]; exact ⟨rfl, rfl, rfl⟩
  · rw [hp]; exact ⟨rfl, rfl, rfl⟩

/-- An accepted SAMPLE whose result needs no clamp makes it the reference. -/
theorem Regs.sint_sampleAccepted_acc {W : Nat} (hW : 0 < W) (r : Regs W) (data : BitVec W)
    (h : inRange W (unclamped (comparator data r.acc) r.acc r.step) = true) :
    sint (r.sampleAccepted data).acc = unclamped (comparator data r.acc) r.acc r.step := by
  obtain ⟨lo, hi⟩ := (inRange_iff W _).mp h
  rw [Regs.sampleAccepted_eq, sint_wordOf_clamp hW]
  obtain ⟨habove, -⟩ | ⟨hbelow, -⟩ | ⟨-, -, hc⟩ :=
    clamp_cases W (unclamped (comparator data r.acc) r.acc r.step)
  · omega
  · omega
  · exact hc

/-- What the ports show after an accepted SAMPLE that needs no clamp. -/
theorem Regs.next_outputs_of_accepts {W : Nat} (hW : 0 < W) {r : Regs W} {i : Inputs W}
    (ha : r.accepts i = true)
    (h : inRange W (unclamped (comparator i.cmdData r.acc) r.acc r.step) = true) :
    (r.next i).outputs.outValid = true ∧
      (r.next i).outputs.bitOut = comparator i.cmdData r.acc ∧
      sint (r.next i).outputs.refOut = unclamped (comparator i.cmdData r.acc) r.acc r.step := by
  rw [Regs.next_of_accepts ha, Regs.outputs_refOut, Regs.sint_sampleAccepted_acc hW r i.cmdData h,
    Regs.sampleAccepted_eq]
  exact ⟨rfl, rfl, rfl⟩

/-! ## What a run's outputs are made of -/

theorem observeAt_drive_cons {W : Nat} (n : Nat) (s : StateAt W) (i : Inputs W)
    (is : List (Inputs W)) :
    observeAt (n + 1) (s.drive (i :: is)) =
      (s.regs.next i).outputs :: observeAt n ((s.withRegs (s.regs.next i)).drive is) :=
  observeAt_succ n (s.drive (i :: is))

section Outputs

variable {W : Nat} {o : Outputs W}

theorem bitstream_cons_of_valid (h : o.outValid = true) (os : List (Outputs W)) :
    bitstream (o :: os) = o.bitOut :: bitstream os := by
  simp [bitstream, h]

theorem bitstream_cons_of_not_valid (h : o.outValid = false) (os : List (Outputs W)) :
    bitstream (o :: os) = bitstream os := by
  simp [bitstream, h]

theorem refTrace_cons_of_valid (h : o.outValid = true) (os : List (Outputs W)) :
    refTrace (o :: os) = o.refOut :: refTrace os := by
  simp [refTrace, h]

theorem refTrace_cons_of_not_valid (h : o.outValid = false) (os : List (Outputs W)) :
    refTrace (o :: os) = refTrace os := by
  simp [refTrace, h]

end Outputs

theorem Regs.accepted_cons_of_accepts {W : Nat} {r : Regs W} {i : Inputs W}
    (h : r.accepts i = true) (is : List (Inputs W)) :
    r.accepted (i :: is) = (i.cmdData, r.step) :: (r.next i).accepted is := if_pos h

theorem Regs.accepted_cons_of_not_accepts {W : Nat} {r : Regs W} {i : Inputs W}
    (h : r.accepts i = false) (is : List (Inputs W)) :
    r.accepted (i :: is) = (r.next i).accepted is := if_neg (by simp [h])

theorem Regs.clampFree_cons_iff {W : Nat} (r : Regs W) (i : Inputs W) (is : List (Inputs W)) :
    r.clampFree (i :: is) = true ↔
      (r.accepts i = true → inRange W (unclamped (comparator i.cmdData r.acc) r.acc r.step) = true) ∧
        (r.next i).clampFree is = true := by
  rw [Regs.clampFree, Bool.and_eq_true, Bool.or_eq_true, Bool.not_eq_true', ← Bool.not_eq_true,
    ← imp_iff_not_or]

/-! ## The source's algorithms -/

/-- The encoder's turn on an accepted SAMPLE, in the block's own terms. -/
theorem encodeRefFrom_cons {W : Nat} (x acc step : BitVec W) (ss : List Int) :
    encodeRefFrom (sint step) (sint acc) (sint x :: ss) =
      Prod.map (List.cons (comparator x acc)) (List.cons (unclamped (comparator x acc) acc step))
        (encodeRefFrom (sint step) (unclamped (comparator x acc) acc step) ss) := by
  by_cases h : sint acc < sint x <;> simp [encodeRefFrom, unclamped, comparator, h, Prod.ext_iff]

/-- The decoder recurrence on the encoder's bits gives the encoder's trace (42_frame.md R127). -/
theorem decodeRefFrom_encodeRefFrom {α : Type} [AddGroup α] [LT α] [DecidableLT α] (d c : α)
    (ss : List α) : decodeRefFrom d c (encodeRefFrom d c ss).1 = (encodeRefFrom d c ss).2 := by
  induction ss generalizing c with
  | nil => rfl
  | cons s ss ih => by_cases h : c < s <;> simp [encodeRefFrom, decodeRefFrom, h, ih, sub_eq_add_neg]

/-! ## A frame without a clamp -/

/-- Inside a frame whose accepted SAMPLEs all had STEP = `d` and did not clamp, the outputs are the
encoder's from the reference at hand: an accepted SAMPLE is one turn of its loop, every other edge
none. -/
theorem observeAt_eq_encodeRefFrom {W : Nat} (hW : 0 < W) (d : BitVec W) (body : List (Inputs W))
    (s : StateAt W) (hb : ∀ i ∈ body, beginsFrame i = false)
    (hd : ∀ p ∈ s.regs.accepted body, p.2 = d) (hc : s.regs.clampFree body = true) :
    (bitstream (observeAt body.length (s.drive body)),
      (refTrace (observeAt body.length (s.drive body))).map sint) =
    encodeRefFrom (sint d) (sint s.regs.acc)
      (((s.regs.accepted body).map Prod.fst).map sint) := by
  induction body generalizing s with
  | nil => rfl
  | cons i is ih =>
    obtain ⟨hb, hbs⟩ := List.forall_mem_cons.mp hb
    obtain ⟨hrange, hcs⟩ := (s.regs.clampFree_cons_iff i is).mp hc
    rw [List.length_cons, observeAt_drive_cons]
    have ih := ih (s.withRegs (s.regs.next i)) hbs
    cases ha : s.regs.accepts i with
    | false =>
      obtain ⟨hacc, -, hvalid⟩ := Regs.next_held hb ha
      rw [Regs.accepted_cons_of_not_accepts ha] at hd ⊢
      rw [bitstream_cons_of_not_valid hvalid, refTrace_cons_of_not_valid hvalid, ih hd hcs,
        StateAt.withRegs_regs, hacc]
    | true =>
      rw [Regs.accepted_cons_of_accepts ha] at hd ⊢
      obtain ⟨hstep, hds⟩ := List.forall_mem_cons.mp hd
      obtain rfl : s.regs.step = d := hstep
      obtain ⟨hvalid, hbit, href⟩ := Regs.next_outputs_of_accepts hW ha (hrange ha)
      rw [bitstream_cons_of_valid hvalid, refTrace_cons_of_valid hvalid, hbit, List.map_cons,
        List.map_cons, List.map_cons, href, encodeRefFrom_cons, ← href]
      exact congrArg (Prod.map _ _) (ih hds hcs)

/-- Settles O59: the edge that begins the frame seeds the reference and shows no output, the body runs
the encoder from 0, and the decoder recurrence follows the encoder's bits. -/
theorem frameAtEveryWidth : Obligations.FrameAtEveryWidth := by
  intro W s start body d hW hstart hbody hd hc os samples
  obtain ⟨hacc, -, hvalid⟩ := s.regs.next_of_beginsFrame hstart
  have hos : os = (s.regs.next start).outputs ::
      observeAt body.length ((s.withRegs (s.regs.next start)).drive body) :=
    observeAt_drive_cons body.length s start body
  have hpair : (bitstream os, (refTrace os).map sint) = encodeRef (samples.map sint) (sint d) := by
    rw [hos, bitstream_cons_of_not_valid hvalid, refTrace_cons_of_not_valid hvalid,
      observeAt_eq_encodeRefFrom (by omega) d body _ hbody hd hc, StateAt.withRegs_regs, hacc]
    simp [encodeRef, samples, sint]
  obtain ⟨hbits, htrace⟩ := Prod.ext_iff.mp hpair
  refine ⟨hbits, htrace, ?_⟩
  calc (refTrace os).map sint
      = (encodeRef (samples.map sint) (sint d)).2 := htrace
    _ = decodeRef (encodeRef (samples.map sint) (sint d)).1 (sint d) :=
        (decodeRefFrom_encodeRefFrom (sint d) 0 _).symm
    _ = decodeRef (bitstream os) (sint d) := by rw [← hbits]

end Sys2Proof.Machine

/-!
PROOFS. What an edge of this hardware's machine leaves in each register (10_state.md R20 to R37): which
commands the ports carry, what writes the strobe, the reference, the bit and the step, and what sets and
clears each sticky flag.
-/

namespace Sys2Proof.Machine

/-! ## The step, the invariant and the reset state -/

/-- Settles O13: decode and dispatch come to R40's `Step(S, I)` at width 16. -/
theorem stepIsSpecStep : Obligations.StepIsSpecStep := step_eq

/-- Settles O56: the same at every width. -/
theorem stepIsSpecStepAtEveryWidth : Obligations.StepIsSpecStepAtEveryWidth := fun _ => stepAt_eq

/-- Settles O34: the step is R40's `Step(S, I)`, which keeps the invariant. -/
theorem stepKeepsInvariant : Obligations.StepKeepsInvariant :=
  fun s h => ⟨_, step_eq s, Regs.next_inv h s.ports⟩

/-- Settles O33: the reset registers meet the invariant at every width. -/
theorem resetMeetsInvariant : Obligations.ResetMeetsInvariant := Regs.reset_inv Config.W

theorem step_of_rst {s : State} (h : s.ports.rst = true) :
    step s = .next (s.advance.withRegs (Regs.reset Config.W)) := by
  rw [step_eq, Regs.next_of_rst s.regs h]

/-- Settles O11: the reset state and its ports are evaluated; an edge with `rst = 1` enters it. -/
theorem resetStateValues : Obligations.ResetStateValues :=
  ⟨rfl, by decide, fun _ => step_of_rst⟩

theorem step_of_not_rst {s : State} (h : s.ports.rst = false) :
    step s = exec s.ports.command s.advance := if_neg (by simp [h])

theorem Inputs.word_of_cmdValid {W : Nat} {i : Inputs W} (h : i.cmdValid = true) :
    i.word = i.cmdOp ++ i.cmdData := by
  simp [Inputs.word, Inputs.op, h]

/-- Settles O7: the word on the ports is the one the block decodes. -/
theorem stepRunsDecodedCommand : Obligations.StepRunsDecodedCommand := by
  rintro s _ - hrst hvalid rfl
  rw [step_of_not_rst hrst, Inputs.command, Inputs.word_of_cmdValid hvalid]
  rfl

/-! ## The output ports -/

/-- STATUS bit by bit: the five flags from bit 0 on, and 0 above them. -/
theorem Regs.statusWord_getLsbD {W : Nat} (r : Regs W) (n : Nat) :
    r.statusWord.getLsbD n = [r.ready, r.paramErr, r.sampleRej, r.illCmd, r.sat].getD n false := by
  change BitVec.getLsbD (w := 3 + 1 + 1 + 1 + 1 + 1) _ n = _
  simp only [Regs.statusWord, BitVec.getLsbD_append, BitVec.getLsbD_ofBool]
  match n with
  | 0 | 1 | 2 | 3 | 4 => simp
  | n + 5 => simp

/-- A condition's code is the bit of STATUS that shows its flag (60_exceptions.md R141). -/
theorem Regs.statusWord_getLsbD_code {W : Nat} (r : Regs W) (c : ErrorCond) :
    r.statusWord.getLsbD c.code = r.flag c := by
  rw [Regs.statusWord_getLsbD]
  cases c <;> rfl

/-- Settles O25: each bit of STATUS is read from the list of flags. -/
theorem statusWordLayout : Obligations.StatusWordLayout := by
  refine ⟨fun r => ?_, by decide⟩
  refine ⟨?_, ?_, ?_, ?_, ?_, ?_, ?_, ?_, r.statusWord_getLsbD_code⟩ <;>
    exact r.statusWord_getLsbD _

/-- Settles O26: the one cycle observed shows the outputs of the next registers. -/
theorem portsShowNextState : Obligations.PortsShowNextState :=
  fun s => ⟨_, step_eq s, observe_succ 0 s⟩

/-! ## The next registers after a step, and the command an edge performs -/

theorem regs_of_step {s t : State} (h : step s = .next t) : t.regs = s.regs.next s.ports := by
  rw [step_eq] at h
  cases h
  rfl

/-- A command other than NOP is performed exactly where the edge is no reset and its opcode is the
one R40's case reads. -/
theorem Inputs.performs_iff {W : Nat} (i : Inputs W) {op : BitVec 3} (hop : op ≠ 0b000#3) :
    i.performs op = true ↔ i.rst = false ∧ i.op = op := by
  cases hv : i.cmdValid with
  | true => simp [Inputs.performs, Inputs.op, hv]
  | false => simp [Inputs.performs, Inputs.op, hv, hop.symm]

theorem Inputs.performs_of_not_rst {W : Nat} {i : Inputs W} (hrst : i.rst = false) {op : BitVec 3}
    (hop : op ≠ 0b000#3) : i.performs op = (i.op == op) := by
  rw [Bool.eq_iff_iff, i.performs_iff hop, beq_iff_eq, and_iff_right hrst]

theorem Regs.accepts_eq_performs {W : Nat} (r : Regs W) (i : Inputs W) :
    r.accepts i = (i.performs 0b001#3 && r.ready) := by
  rw [Bool.eq_iff_iff, Regs.accepts_iff, Bool.and_eq_true, i.performs_iff (by decide), and_assoc]

theorem Regs.accepts_iff_performs {W : Nat} (r : Regs W) (i : Inputs W) :
    r.accepts i = true ↔ i.performs 0b001#3 = true ∧ r.ready = true := by
  rw [Regs.accepts_eq_performs, Bool.and_eq_true]

theorem beginsFrame_eq_performs {W : Nat} (i : Inputs W) :
    beginsFrame i = (i.rst || i.performs 0b011#3) := by
  rw [Bool.eq_iff_iff, beginsFrame_iff, Bool.or_eq_true, i.performs_iff (by decide)]
  cases i.rst <;> simp

/-! ## The strobe -/

/-- The strobe after an edge says whether the edge accepted a SAMPLE (10_state.md R31). -/
theorem Regs.next_validQ {W : Nat} (r : Regs W) (i : Inputs W) :
    (r.next i).validQ = r.accepts i := by
  cases ha : r.accepts i with
  | true => rw [Regs.next_of_accepts ha, Regs.sampleAccepted_eq]
  | false =>
    cases hb : beginsFrame i with
    | true =>
      obtain ⟨-, -, hvalid⟩ := r.next_of_beginsFrame hb
      exact hvalid
    | false =>
      obtain ⟨-, -, hvalid⟩ := Regs.next_held hb ha
      exact hvalid

/-- Settles O29: the strobe is the accepted SAMPLE, and that is what the ports and READY say. -/
theorem strobeIffAcceptedSample : Obligations.StrobeIffAcceptedSample := by
  refine fun s => ⟨_, step_eq s, ?_⟩
  rw [← Regs.accepts_iff_performs, ← Regs.next_validQ]
  rfl

/-- Settles O24: READY is its own formula, and a strobe is an accepted SAMPLE, which needs it. -/
theorem readyIsStepAndNoParamErr : Obligations.ReadyIsStepAndNoParamErr := by
  refine ⟨Regs.ready_iff, fun s t h hvalid => ?_, by decide⟩
  rw [regs_of_step h, Regs.next_validQ, Regs.accepts_iff_performs] at hvalid
  exact hvalid.2

/-! ## The reference and the bit -/

theorem Regs.next_of_rst_or_clear {W : Nat} (r : Regs W) {i : Inputs W}
    (h : i.rst = true ∨ i.performs 0b011#3 = true) :
    (r.next i).acc = 0 ∧ (r.next i).bitQ = false := by
  obtain ⟨hacc, hbit, -⟩ := r.next_of_beginsFrame (i := i) (by
    rwa [beginsFrame_eq_performs, Bool.or_eq_true])
  exact ⟨hacc, hbit⟩

theorem Regs.next_of_performs_sample {W : Nat} {r : Regs W} {i : Inputs W}
    (hs : i.performs 0b001#3 = true) (hr : r.ready = true) :
    r.next i = r.sampleAccepted i.cmdData :=
  Regs.next_of_accepts ((r.accepts_iff_performs i).mpr ⟨hs, hr⟩)

/-- Neither a reset, nor a CLEAR, nor an accepted SAMPLE: the reference and the bit are held. -/
theorem Regs.next_acc_bitQ_held {W : Nat} {r : Regs W} {i : Inputs W} (hrst : i.rst = false)
    (hclear : i.performs 0b011#3 = false) (hs : (i.performs 0b001#3 && r.ready) = false) :
    (r.next i).acc = r.acc ∧ (r.next i).bitQ = r.bitQ := by
  have hframe : beginsFrame i = false := by rw [beginsFrame_eq_performs, hrst, hclear]; rfl
  obtain ⟨hacc, hbit, -⟩ := Regs.next_held hframe ((r.accepts_eq_performs i).trans hs)
  exact ⟨hacc, hbit⟩

/-- Settles O30: an edge begins a frame, accepts a SAMPLE, whose clamp fits the word, or holds ACC. -/
theorem accWrittenOnlyBySampleClearReset : Obligations.AccWrittenOnlyBySampleClearReset := by
  intro s t h
  rw [regs_of_step h]
  refine ⟨fun hrst => (s.regs.next_of_rst_or_clear (.inl hrst)).1,
    fun hclear => (s.regs.next_of_rst_or_clear (.inr hclear)).1, fun hs hr => ?_,
    fun hrst hclear hs => (Regs.next_acc_bitQ_held hrst hclear hs).1, rfl, sint_word_range _⟩
  rw [Regs.next_of_performs_sample hs hr, Regs.sampleAccepted_eq, sint_wordOf_clamp (by decide),
    clamp_eq_max_min, unclamped_comparator, minInt_config, maxInt_config]

/-- Settles O32, by the same three kinds of edge. -/
theorem bitHeldBetweenSamples : Obligations.BitHeldBetweenSamples := by
  intro s t h
  rw [regs_of_step h]
  refine ⟨fun hrst => (s.regs.next_of_rst_or_clear (.inl hrst)).2,
    fun hclear => (s.regs.next_of_rst_or_clear (.inr hclear)).2, fun hs hr => ?_,
    fun hrst hclear hs => (Regs.next_acc_bitQ_held hrst hclear hs).2⟩
  rw [Regs.next_of_performs_sample hs hr, Regs.sampleAccepted_eq]
  exact comparator_iff _ _

/-! ## The step size -/

theorem Regs.next_step_of_setStep {W : Nat} (r : Regs W) {i : Inputs W}
    (h : i.performs 0b010#3 = true) (hv : 1 ≤ sint i.cmdData) : (r.next i).step = i.cmdData := by
  obtain ⟨hrst, hop⟩ := (i.performs_iff (by decide)).mp h
  rw [Regs.next_of_not_rst r hrst, hop]
  exact congrArg Regs.step (r.setStep_of_valid hv)

/-- Neither a reset nor a valid SET_STEP: STEP is held. -/
theorem Regs.next_step_held {W : Nat} (r : Regs W) {i : Inputs W} (hrst : i.rst = false)
    (h : ¬ (i.performs 0b010#3 = true ∧ 1 ≤ sint i.cmdData)) : (r.next i).step = r.step := by
  rw [Regs.next_of_not_rst r hrst]
  obtain ⟨-, hp⟩ | ⟨-, hp⟩ | ⟨hop, hp⟩ | ⟨-, hp⟩ | ⟨-, hp⟩ | ⟨-, hp⟩ :=
    r.perform_cases i.op i.cmdData <;> rw [hp]
  · rfl
  · obtain ⟨-, hs⟩ | ⟨-, hs⟩ := r.sample_cases i.cmdData
    · rw [hs, Regs.sampleAccepted_eq]
    · rw [hs, Regs.sampleRefused_eq]
  · have hv : ¬ 1 ≤ sint i.cmdData :=
      fun hv => h ⟨(i.performs_iff (by decide)).mpr ⟨hrst, hop⟩, hv⟩
    rw [Regs.setStep_of_invalid r (by omega)]
  · rfl
  · rfl
  · rfl

theorem Regs.next_step_cases {W : Nat} (r : Regs W) (i : Inputs W) :
    (i.rst = true ∧ (r.next i).step = 0) ∨
    (1 ≤ sint i.cmdData ∧ (r.next i).step = i.cmdData) ∨ (r.next i).step = r.step := by
  cases hrst : i.rst with
  | true => exact .inl ⟨rfl, congrArg Regs.step (r.next_of_rst hrst)⟩
  | false =>
    by_cases h : i.performs 0b010#3 = true ∧ 1 ≤ sint i.cmdData
    · exact .inr (.inl ⟨h.2, r.next_step_of_setStep h.1 h.2⟩)
    · exact .inr (.inr (r.next_step_held hrst h))

/-- Settles O31: the three ways STEP gets its next value; a written operand is positive. -/
theorem stepWrittenOnlyBySetStepReset : Obligations.StepWrittenOnlyBySetStepReset := by
  intro s t h
  rw [regs_of_step h]
  refine ⟨fun hrst => congrArg Regs.step (s.regs.next_of_rst hrst), s.regs.next_step_of_setStep,
    s.regs.next_step_held, fun h0 => ?_, fun hnonneg => ⟨?_, (sint_word_range _).2⟩, rfl⟩
  · obtain ⟨hrst, -⟩ | ⟨hv, hd⟩ | hkept := s.regs.next_step_cases s.ports
    · exact .inl hrst
    · have hzero : s.ports.cmdData = 0 := hd.symm.trans h0
      simp [hzero, sint] at hv
    · exact .inr (hkept.symm.trans h0)
  · obtain ⟨-, hd⟩ | ⟨hv, hd⟩ | hkept := s.regs.next_step_cases s.ports
    · simp [hd, sint]
    · rw [hd]; omega
    · rwa [hkept]

/-! ## The sticky flags -/

/-- The event that sets a flag, for a command on the registers (10_state.md R28 to R30, R32). -/
def Regs.raises {W : Nat} (r : Regs W) (op : BitVec 3) (data : BitVec W) : ErrorCond → Prop
  | .paramErr => op = 0b010#3 ∧ sint data ≤ 0
  | .sampleRej => op = 0b001#3 ∧ r.ready = false
  | .illCmd => op = 0b101#3 ∨ op = 0b110#3 ∨ op = 0b111#3
  | .sat => op = 0b001#3 ∧ r.ready = true ∧
      saturates W (unclamped (comparator data r.acc) r.acc r.step) = true

/-- The commands that clear a flag: CLEAR_FLAGS every one, a valid SET_STEP PARAM_ERR (10_state.md
R27). -/
def clearsFlag {W : Nat} (op : BitVec 3) (data : BitVec W) : ErrorCond → Prop
  | .paramErr => op = 0b100#3 ∨ (op = 0b010#3 ∧ 1 ≤ sint data)
  | .sampleRej | .illCmd | .sat => op = 0b100#3

/-- A command leaves a flag at 1 exactly where it sets it, or finds it at 1 and does not clear it. -/
theorem Regs.perform_flag_iff {W : Nat} (r : Regs W) (op : BitVec 3) (data : BitVec W)
    (c : ErrorCond) :
    (r.perform op data).flag c = true ↔
      r.raises op data c ∨ (r.flag c = true ∧ ¬ clearsFlag op data c) := by
  obtain ⟨rfl, hp⟩ | ⟨rfl, hp⟩ | ⟨rfl, hp⟩ | ⟨rfl, hp⟩ | ⟨rfl, hp⟩ | ⟨hop, hp⟩ :=
    r.perform_cases op data <;> rw [hp]
  · cases c <;> simp [Regs.nop_eq, Regs.flag, Regs.raises, clearsFlag]
  · obtain ⟨hr, hs⟩ | ⟨hr, hs⟩ := r.sample_cases data
    · rw [hs, Regs.sampleAccepted_eq]
      cases c <;> simp [Regs.flag, Regs.raises, clearsFlag, hr, or_comm]
    · rw [hs, Regs.sampleRefused_eq]
      cases c <;> simp [Regs.flag, Regs.raises, clearsFlag, hr]
  · rcases lt_or_ge 0 (sint data) with hv | hv
    · rw [Regs.setStep_of_valid r hv]
      cases c <;> simp [Regs.flag, Regs.raises, clearsFlag, hv, show 1 ≤ sint data from hv]
    · rw [Regs.setStep_of_invalid r hv]
      cases c <;> simp [Regs.flag, Regs.raises, clearsFlag, hv]
  · cases c <;> simp [Regs.clear_eq, Regs.flag, Regs.raises, clearsFlag]
  · cases c <;> simp [Regs.clearFlags_eq, Regs.flag, Regs.raises, clearsFlag]
  · obtain rfl | rfl | rfl := hop <;> cases c <;>
      simp [Regs.reserved_eq, Regs.flag, Regs.raises, clearsFlag]

theorem Regs.next_flag_iff {W : Nat} (r : Regs W) (i : Inputs W) (c : ErrorCond) :
    (r.next i).flag c = true ↔ i.rst = false ∧
      (r.raises i.op i.cmdData c ∨ (r.flag c = true ∧ ¬ clearsFlag i.op i.cmdData c)) := by
  cases hrst : i.rst with
  | true =>
    rw [Regs.next_of_rst r hrst]
    cases c <;> simp [Regs.flag]
  | false => simp [Regs.next_of_not_rst r hrst, Regs.perform_flag_iff]

/-- The clamp acts exactly outside this hardware's range. -/
theorem saturates_config_iff (t : Int) :
    saturates Config.W t = true ↔ ¬ (-32768 ≤ t ∧ t ≤ 32767) := by
  rw [saturates_iff, minInt_config, maxInt_config]
  omega

/-- The registers without the three flags that no command reads (10_state.md R27). -/
def Regs.maskUnread {W : Nat} (r : Regs W) : Regs W :=
  { r with sampleRej := false, illCmd := false, sat := false }

theorem Regs.maskUnread_eq_iff {W : Nat} (r r' : Regs W) :
    r.maskUnread = r'.maskUnread ↔ r.acc = r'.acc ∧ r.step = r'.step ∧ r.bitQ = r'.bitQ ∧
      r.validQ = r'.validQ ∧ r.paramErr = r'.paramErr := by
  simp [Regs.maskUnread]

/-- SAMPLE_REJ, ILL_CMD and SAT reach no register but themselves through a command. -/
theorem Regs.maskUnread_perform {W : Nat} (r : Regs W) (op : BitVec 3) (data : BitVec W) :
    (r.maskUnread.perform op data).maskUnread = (r.perform op data).maskUnread := by
  obtain ⟨rfl, hp⟩ | ⟨rfl, hp⟩ | ⟨rfl, hp⟩ | ⟨rfl, hp⟩ | ⟨rfl, hp⟩ | ⟨hop, hp⟩ :=
    r.perform_cases op data <;> rw [hp]
  · rfl
  · change (r.maskUnread.sample data).maskUnread = _
    obtain ⟨hr, hs⟩ | ⟨hr, hs⟩ := r.sample_cases data <;> rw [hs]
    · rw [Regs.sample_of_ready (r := r.maskUnread) hr, Regs.sampleAccepted_eq,
        Regs.sampleAccepted_eq]
      rfl
    · rw [Regs.sample_of_not_ready (r := r.maskUnread) hr]
      rfl
  · change (r.maskUnread.setStep data).maskUnread = _
    unfold Regs.setStep
    split <;> rfl
  · rfl
  · rfl
  · obtain rfl | rfl | rfl := hop <;> rfl

theorem Regs.maskUnread_next {W : Nat} (r : Regs W) (i : Inputs W) :
    (r.maskUnread.next i).maskUnread = (r.next i).maskUnread := by
  cases hrst : i.rst with
  | true => rw [Regs.next_of_rst _ hrst, Regs.next_of_rst _ hrst]
  | false =>
    rw [Regs.next_of_not_rst _ hrst, Regs.next_of_not_rst _ hrst, Regs.maskUnread_perform]

/-- Settles O27: each flag's events and clearing commands, read from the ports; and the registers that
differ in the unread flags alone take the same next values. -/
theorem stickyFlagsSetAndCleared : Obligations.StickyFlagsSetAndCleared := by
  constructor
  · intro s t h i a d u
    have hflag := s.regs.next_flag_iff i
    rw [← regs_of_step h] at hflag
    have hsat : saturates Config.W
        (unclamped (comparator i.cmdData s.regs.acc) s.regs.acc s.regs.step) = true ↔
          ¬ (-32768 ≤ u ∧ u ≤ 32767) := by
      rw [saturates_config_iff, unclamped_comparator]
    refine ⟨(hflag .paramErr).trans (and_congr_right fun hrst => ?_),
      (hflag .sampleRej).trans (and_congr_right fun hrst => ?_),
      (hflag .illCmd).trans (and_congr_right fun hrst => ?_),
      (hflag .sat).trans (and_congr_right fun hrst => ?_)⟩ <;>
    simp [Regs.raises, clearsFlag, Regs.flag, Inputs.performs_of_not_rst hrst, hsat, i]
  · intro s t t' rej ill sat h h'
    rw [← Regs.maskUnread_eq_iff, regs_of_step h, regs_of_step h', ← Regs.maskUnread_next,
      ← Regs.maskUnread_next s.regs]
    rfl

end Sys2Proof.Machine

/-!
PROOFS. Which commands do the same twice as once (20_memory.md R53): the configuration commands, whose
effects are idempotent at every width, and not SAMPLE, which moves the reference each time.
-/

namespace Sys2Proof.Machine

/-! ## The configuration commands are idempotent -/

section Configuration

variable {W : Nat} (r : Regs W)

theorem Regs.nop_nop : r.nop.nop = r.nop := rfl

theorem Regs.clear_clear : r.clear.clear = r.clear := rfl

theorem Regs.clearFlags_clearFlags : r.clearFlags.clearFlags = r.clearFlags := rfl

/-- Whether the operand is valid depends on it alone, so both writes take the same branch. -/
theorem Regs.setStep_setStep (data : BitVec W) :
    (r.setStep data).setStep data = r.setStep data := by
  rcases lt_or_ge 0 (sint data) with hv | hv
  · rw [Regs.setStep_of_valid r hv, Regs.setStep_of_valid _ hv]
  · rw [Regs.setStep_of_invalid r hv, Regs.setStep_of_invalid _ hv]

end Configuration

/-! ## SAMPLE is not -/

/-- An accepted SAMPLE that needs no clamp moves the reference, by a step that is not zero. -/
theorem Regs.sample_acc_ne {W : Nat} (hW : 0 < W) {r : Regs W} (hr : r.ready = true)
    (data : BitVec W)
    (h : inRange W (unclamped (comparator data r.acc) r.acc r.step) = true) :
    (r.sample data).acc ≠ r.acc := by
  intro hacc
  have hstep : sint r.step ≠ 0 := fun h0 =>
    (r.ready_iff.mp hr).1 (sint_inj (h0.trans BitVec.toInt_zero.symm))
  have hmove := r.sint_sampleAccepted_acc hW data h
  rw [← Regs.sample_of_ready hr, hacc, unclamped_comparator] at hmove
  split at hmove <;> omega

/-! ## A command done twice -/

/-- A command leaves the state as it is exactly where its effect leaves the registers as they are. -/
theorem exec_eq_next_self_iff (i : Instr) (s : State) :
    exec i s = .next s ↔ s.regs.effect i.command = s.regs := by
  rw [exec_eq, Host.Outcome.next.injEq]
  exact ⟨congrArg fun t : State => t.regs, fun h => by rw [h]; rfl⟩

/-- A command whose effect is idempotent at the registers does the same twice as once. -/
theorem exec_twice_of_effect_idempotent {i : Instr} {s : State}
    (h : (s.regs.effect i.command).effect i.command = s.regs.effect i.command) :
    ∃ t : State, exec i s = .next t ∧ exec i t = .next t :=
  ⟨_, exec_eq i s, (exec_eq_next_self_iff i _).mpr h⟩

/-- Settles O35: the four effects are idempotent; with STEP = 1 the sample 2 lifts the reference from
0 to 1, and again from 1. -/
theorem configurationCommandsIdempotent : Obligations.ConfigurationCommandsIdempotent := by
  constructor
  · rintro i data s (rfl | rfl | rfl | rfl) <;> apply exec_twice_of_effect_idempotent
    · exact s.regs.setStep_setStep data
    · exact s.regs.clear_clear
    · exact s.regs.clearFlags_clearFlags
    · exact s.regs.nop_nop
  · refine ⟨2, ⟨⟨0, 1, false, false, false, false, false, false⟩, []⟩,
      ⟨⟨1, 1, true, true, false, false, false, false⟩, []⟩, rfl, fun h => ?_⟩
    have hfixed := (exec_eq_next_self_iff _ _).mp h
    exact Regs.sample_acc_ne (by decide) (by decide) 2 (by decide) (congrArg Regs.acc hfixed)

end Sys2Proof.Machine

/-!
PROOFS. The command word as a number, at every width (30_encoding.md R60), the decoder and the encoder as
inverses of each other (R61, R65), and what the ports' word and `cmd_valid` make the step do (R64).
-/

namespace Sys2Proof

/-! ## The command word as a number -/

theorem toNat_append_data {W : Nat} (op : Op) (data : BitVec W) :
    (op ++ data : CmdWordOf W).toNat = op.toNat * 2 ^ W + data.toNat := by
  rw [BitVec.toNat_append, ← Nat.shiftLeft_add_eq_or_of_lt data.isLt, Nat.shiftLeft_eq]

theorem opField_toNat {W : Nat} (c : CmdWordOf W) : (opField c).toNat = c.toNat / 2 ^ W := by
  have hlt : c.toNat / 2 ^ W < 2 ^ 3 :=
    Nat.div_lt_of_lt_mul (by rw [mul_comm, ← pow_add]; exact c.isLt)
  rw [opField, BitVec.extractLsb'_toNat, Nat.shiftRight_eq_div_pow, Nat.mod_eq_of_lt hlt]

theorem dataField_toNat {W : Nat} (c : CmdWordOf W) : (dataField c).toNat = c.toNat % 2 ^ W := by
  rw [dataField, BitVec.extractLsb'_toNat, Nat.shiftRight_zero]

/-- A command word is its two fields (30_encoding.md R60). -/
theorem opField_append_dataField {W : Nat} (c : CmdWordOf W) : opField c ++ dataField c = c := by
  apply BitVec.eq_of_toNat_eq
  rw [toNat_append_data, opField_toNat, dataField_toNat, Nat.div_add_mod']

theorem encodeCommand_toNat {W : Nat} (c : Command W) :
    (encodeCommand c).toNat = c.opcode.bits.toNat * 2 ^ W + c.data.toNat :=
  toNat_append_data c.opcode.bits c.data

/-! ## The decoder and the encoder undo each other -/

theorem decodeCommand_append {W : Nat} (op : Op) (data : BitVec W) :
    decodeCommand (op ++ data) = ⟨Opcode.ofBits op, data⟩ := by
  rw [decodeCommand, opField_append, dataField_append]

theorem decodeCommand_encodeCommand {W : Nat} (c : Command W) :
    decodeCommand (encodeCommand c) = c := by
  rw [encodeCommand, decodeCommand_append, Opcode.ofBits_bits]

theorem encodeCommand_decodeCommand {W : Nat} (w : CmdWordOf W) :
    encodeCommand (decodeCommand w) = w := by
  rw [encodeCommand, decodeCommand, Opcode.bits_ofBits, opField_append_dataField]

theorem decode_encode (i : Instr) : decode (encode i) = i := by
  rw [decode, encode, decodeCommand_encodeCommand, Instr.command_instr]

theorem encode_decode (c : CmdWord) : encode (decode c) = c := by
  rw [decode, encode, Command.instr_command, encodeCommand_decodeCommand]

/-- The decoder loses nothing: it has the encoder as its left inverse. -/
theorem decode_injective : Function.Injective decode :=
  Function.LeftInverse.injective encode_decode

/-! ## The decoder on numbers -/

theorem decodeCommandBits_of_lt {W n : Nat} (h : n < 2 ^ (3 + W)) :
    decodeCommandBits W n = .ok (decodeCommand (BitVec.ofNat _ n)) :=
  if_pos (decide_eq_true h)

theorem decodeCommandBits_of_ge {W n : Nat} (h : 2 ^ (3 + W) ≤ n) :
    decodeCommandBits W n = .error .widerThanCommandWord :=
  if_neg (by simpa [isCommandWord] using h)

theorem decodeCommandBits_toNat {W : Nat} (c : CmdWordOf W) :
    decodeCommandBits W c.toNat = .ok (decodeCommand c) := by
  rw [decodeCommandBits_of_lt c.isLt, BitVec.ofNat_toNat, BitVec.setWidth_eq]

theorem decodeBits_of_lt {n : Nat} (h : n < 2 ^ 19) :
    decodeBits n = .ok (decode (BitVec.ofNat 19 n)) := by
  rw [decodeBits, decodeCommandBits_of_lt h]
  rfl

theorem decodeBits_of_ge {n : Nat} (h : 2 ^ 19 ≤ n) :
    decodeBits n = .error .widerThanCommandWord := by
  rw [decodeBits, decodeCommandBits_of_ge h]

theorem decodeBits_toNat (c : CmdWord) : decodeBits c.toNat = .ok (decode c) := by
  rw [decodeBits, decodeCommandBits_toNat]
  rfl

/-- A row of at least 19 bits holds every command word, with 0 above it. -/
theorem decodeTableWord_toNat {nbits : Nat} (h : 19 ≤ nbits) (c : CmdWord) :
    decodeTableWord nbits c.toNat = some (decode c) := by
  have hfits : tableBits nbits c.toNat = c.toNat :=
    Nat.mod_eq_of_lt (c.isLt.trans_le (Nat.pow_le_pow_right (by decide) h))
  rw [decodeTableWord, hfits, decodeBits_toNat]

/-! ## The statements on words and commands -/

/-- Settles O3: the word's two fields give the command back, and its number and its row of the table are
the word. -/
theorem decodeEncodeRoundTrip : Obligations.DecodeEncodeRoundTrip := by
  intro i _
  refine ⟨decode_encode i, ?_, ?_⟩
  · rw [decodeBits_toNat, decode_encode]
  · rw [decodeTableWord_toNat (by decide), decode_encode]

/-- Settles O55: the same round trips at every width, and each field as the quotient or the remainder of
the word's number. -/
theorem decodeEncodeAtEveryWidth : Obligations.DecodeEncodeAtEveryWidth := by
  refine fun W => ⟨fun c => ⟨decodeCommand_encodeCommand c, ?_, encodeCommand_toNat c⟩,
    fun w => ⟨encodeCommand_decodeCommand w, ?_, dataField_toNat w⟩⟩
  · rw [decodeCommandBits_toNat, decodeCommand_encodeCommand]
  · rw [decodeCommand, Opcode.bits_ofBits, opField_toNat]

theorem Instr.wf_eq_true (i : Instr) : i.wf = true := by cases i <;> rfl

/-- Settles O4: the encoder undoes the decoder, so the decoder is injective. -/
theorem encodeDecodeRoundTrip : Obligations.EncodeDecodeRoundTrip :=
  fun c => ⟨encode_decode c, (decode c).wf_eq_true, fun _ h => decode_injective h⟩

theorem decode_append (op : Op) (data : Word) :
    decode (op ++ data) = (⟨Opcode.ofBits op, data⟩ : Command Config.W).instr := by
  rw [decode, decodeCommand_append]

/-- Settles O2: the decoder reads `op` alone, at each of its eight values. -/
theorem opcodeMapAsTabled : Obligations.OpcodeMapAsTabled := by
  intro data
  refine ⟨?_, ?_, ?_, ?_, ?_, ?_, ?_, ?_⟩ <;> exact decode_append _ data

/-- Settles O5: a number is a command word exactly below 2^19. -/
theorem widerBitsRejected : Obligations.WiderBitsRejected :=
  fun _ => ⟨decodeBits_of_ge, decodeBits_of_lt⟩

/-- Settles O6: each written word is evaluated. -/
theorem writtenWordsDecode : Obligations.WrittenWordsDecode := by
  unfold Obligations.WrittenWordsDecode
  decide

end Sys2Proof

namespace Sys2Proof.Machine

/-! ## The word on the ports -/

theorem step_of_cmdValid {s : State} (hrst : s.ports.rst = false) (hvalid : s.ports.cmdValid = true) :
    step s = exec (decode (s.ports.cmdOp ++ s.ports.cmdData)) s.advance := by
  rw [step_of_not_rst hrst, Inputs.command, Inputs.word_of_cmdValid hvalid]

/-- Settles O1: the fields and the encoded words as numbers, and the word the ports carry. -/
theorem commandWordLayout : Obligations.CommandWordLayout := by
  refine ⟨fun c => ⟨opField_toNat c, dataField_toNat c⟩, fun data => ?_, by decide,
    fun _ => step_of_cmdValid⟩
  refine ⟨?_, ?_, ?_, ?_, ?_, ?_, ?_, ?_⟩ <;> exact encodeCommand_toNat _

theorem Regs.next_of_not_cmdValid {W : Nat} (r : Regs W) {i : Inputs W} (hrst : i.rst = false)
    (hvalid : i.cmdValid = false) : r.next i = { r with validQ := false } := by
  have hop : i.op = 0b000#3 := by simp [Inputs.op, hvalid]
  rw [Regs.next_of_not_rst r hrst, hop]
  rfl

/-- An edge without a command only drops the strobe (30_encoding.md R64). -/
theorem step_of_not_cmdValid {s : State} (hrst : s.ports.rst = false)
    (hvalid : s.ports.cmdValid = false) :
    step s = .next (s.advance.withRegs { s.regs with validQ := false }) := by
  rw [step_eq, Regs.next_of_not_cmdValid s.regs hrst hvalid]

/-- Settles O8: the three kinds of edge, by `rst` and `cmd_valid`. -/
theorem commandValidSelectsCommand : Obligations.CommandValidSelectsCommand :=
  fun _ _ _ _ => ⟨step_of_not_cmdValid rfl rfl, step_of_cmdValid rfl rfl, fun _ => step_of_rst rfl⟩

/-- Settles O10: with nothing left to drive, the ports carry an edge without a command. -/
theorem emptyScheduleWaits : Obligations.EmptyScheduleWaits := by
  refine ⟨?_, step_of_not_cmdValid rfl rfl⟩
  rintro ⟨⟨r, _⟩⟩ rfl
  exact step_of_not_cmdValid rfl rfl

end Sys2Proof.Machine

/-!
PROOFS. What the assembler's lines drive (30_encoding.md R67, R68), and what ENCODE shows on the output
ports from any state: its three configuration edges leave known registers, its SAMPLEs are all accepted,
and SAT at its end tells whether one of them clamped (42_frame.md R126).
-/

namespace Sys2Proof.Machine

/-! ## Operands of this hardware -/

theorem wordOf?_eq_none_iff (W : Nat) (i : Int) :
    wordOf? W i = none ↔ i < minInt W ∨ maxInt W < i := by
  rw [wordOf?, ite_eq_right_iff, inRange_iff]
  simp only [reduceCtorEq, imp_false]
  omega

/-- Settles O52: the transcriber at W = 16 and F = 8, with its range in numbers. -/
theorem transcriberTakesRepresentableOperands : Obligations.TranscriberTakesRepresentableOperands := by
  obtain ⟨hhex, hint, -, hreal, hrealNone⟩ := transcriberAtEveryWidth Config.W Config.F (by decide)
  refine ⟨hhex, hint, fun i => ?_, hreal, hrealNone⟩
  exact (wordOf?_eq_none_iff Config.W i).trans (by rw [minInt_config, maxInt_config])

/-! ## Lines -/

theorem mapM_eq_none_of_mem {α β : Type} {f : α → Option β} {x : α} {xs : List α} (hx : x ∈ xs)
    (hf : f x = none) : xs.mapM f = none := by
  induction xs with
  | nil => cases hx
  | cons y ys ih =>
    rw [List.mapM_cons]
    obtain rfl | hys := List.mem_cons.mp hx
    · rw [hf]; rfl
    · rw [ih hys]
      cases f y <;> rfl

section Lines

variable {W : Nat} {F : Nat}

theorem Line.edgesAt?_encode_of_some {os : List (Operand W)} {o : Operand W} {ws : List (BitVec W)}
    {d : BitVec W} (hos : os.mapM (Operand.wordAt? F) = some ws) (ho : o.wordAt? F = some d) :
    (Line.encode os o).edgesAt? F = some (encodeFrame ws d) := by
  rw [Line.edgesAt?, hos, ho]

theorem Line.edgesAt?_encode_of_none {os : List (Operand W)} {o : Operand W}
    (h : o.wordAt? F = none ∨ ∃ x ∈ os, x.wordAt? F = none) :
    (Line.encode os o).edgesAt? F = none := by
  rw [Line.edgesAt?]
  obtain ho | ⟨x, hx, hnone⟩ := h
  · rw [ho]
    cases os.mapM (Operand.wordAt? F) <;> rfl
  · rw [mapM_eq_none_of_mem hx hnone]

theorem Line.edgesAt?_sample_of_some {o : Operand W} {w : BitVec W} (ho : o.wordAt? F = some w) :
    (Line.sample o).edgesAt? F = some [commandEdge ⟨.sample, w⟩] := by
  rw [Line.edgesAt?, ho, Option.map_some]

theorem Line.edgesAt?_sample_of_none {o : Operand W} (ho : o.wordAt? F = none) :
    (Line.sample o).edgesAt? F = none := by
  rw [Line.edgesAt?, ho, Option.map_none]

theorem Line.edgesAt?_setStep_of_some {o : Operand W} {w : BitVec W} (ho : o.wordAt? F = some w) :
    (Line.setStep o).edgesAt? F = some [commandEdge ⟨.setStep, w⟩] := by
  rw [Line.edgesAt?, ho, Option.map_some]

theorem Line.edgesAt?_setStep_of_none {o : Operand W} (ho : o.wordAt? F = none) :
    (Line.setStep o).edgesAt? F = none := by
  rw [Line.edgesAt?, ho, Option.map_none]

end Lines

/-- Settles O53: a line without an operand drives its edge by definition; the others depend on whether
every operand has a word. -/
theorem linesDriveTheirEdges : Obligations.LinesDriveTheirEdges := by
  refine ⟨rfl, rfl, rfl, rfl, rfl, rfl, ⟨_, rfl, rfl, rfl⟩, ⟨_, rfl, rfl⟩, fun o w ho => ?_,
    fun o ho => ?_, fun _ _ _ _ => Line.edgesAt?_encode_of_some,
    fun _ _ => Line.edgesAt?_encode_of_none⟩
  · exact ⟨Line.edgesAt?_sample_of_some ho, Line.edgesAt?_setStep_of_some ho⟩
  · exact ⟨Line.edgesAt?_sample_of_none ho, Line.edgesAt?_setStep_of_none ho⟩

/-! ## The registers after a run -/

theorem observeAt_length {W : Nat} (n : Nat) (s : StateAt W) : (observeAt n s).length = n := by
  induction n generalizing s with
  | zero => rfl
  | succ n ih => rw [observeAt_succ, List.length_cons, ih]

/-- The last cycle of a run shows the registers after its last edge. -/
theorem getLast?_outputs_cons_observeAt {W : Nat} (is : List (Inputs W)) (s : StateAt W) :
    (s.regs.outputs :: observeAt is.length (s.drive is)).getLast? =
      some (is.foldl Regs.next s.regs).outputs := by
  induction is generalizing s with
  | nil => rfl
  | cons i is ih =>
    rw [List.length_cons, observeAt_drive_cons, List.getLast?_cons_cons]
    exact ih (s.withRegs (s.regs.next i))

/-- An edge that neither resets nor clears the flags leaves SAT = 0 only where it was 0 and no accepted
SAMPLE clamped. -/
theorem Regs.next_sat_eq_false {W : Nat} {r : Regs W} {i : Inputs W} (hrst : i.rst = false)
    (hop : i.op ≠ 0b100#3) (h : (r.next i).sat = false) :
    r.sat = false ∧ (r.accepts i = true →
      inRange W (unclamped (comparator i.cmdData r.acc) r.acc r.step) = true) := by
  have hflag := r.next_flag_iff i .sat
  simp only [Regs.flag, h, hrst, Regs.raises, clearsFlag, hop, saturates_iff] at hflag
  obtain ⟨hnoclamp, hsat⟩ := not_or.mp fun hset => Bool.false_ne_true (hflag.mpr ⟨trivial, hset⟩)
  refine ⟨by simpa using hsat, fun ha => ?_⟩
  obtain ⟨-, hsample, hr⟩ := (r.accepts_iff i).mp ha
  rw [inRange_iff]
  by_contra hout
  exact hnoclamp ⟨hsample, hr, by omega⟩

/-- SAT = 0 after edges that neither reset nor clear the flags: no accepted SAMPLE of them clamped
(42_frame.md R126). -/
theorem Regs.clampFree_of_sat_foldl_next {W : Nat} (is : List (Inputs W)) {r : Regs W}
    (hrst : ∀ i ∈ is, i.rst = false) (hop : ∀ i ∈ is, i.op ≠ 0b100#3)
    (h : (is.foldl Regs.next r).sat = false) : r.sat = false ∧ r.clampFree is = true := by
  induction is generalizing r with
  | nil => exact ⟨h, rfl⟩
  | cons i is ih =>
    obtain ⟨hrst, hrsts⟩ := List.forall_mem_cons.mp hrst
    obtain ⟨hop, hops⟩ := List.forall_mem_cons.mp hop
    obtain ⟨hsat, hfree⟩ := ih hrsts hops h
    obtain ⟨hsat, hrange⟩ := Regs.next_sat_eq_false hrst hop hsat
    exact ⟨hsat, (r.clampFree_cons_iff i is).mpr ⟨hrange, hfree⟩⟩

/-! ## A run of SAMPLEs -/

/-- The edges that ENCODE drives for its samples. -/
def sampleEdges {W : Nat} (samples : List (BitVec W)) : List (Inputs W) :=
  samples.map (Inputs.issue 0b001#3)

theorem encodeFrame_eq {W : Nat} (samples : List (BitVec W)) (d : BitVec W) :
    encodeFrame samples d = Inputs.issue 0b011#3 0 :: Inputs.issue 0b100#3 0 ::
      Inputs.issue 0b010#3 d :: sampleEdges samples := rfl

section Samples

variable {W : Nat}

theorem sampleEdges_length (samples : List (BitVec W)) :
    (sampleEdges samples).length = samples.length := List.length_map _

theorem encodeFrame_length (samples : List (BitVec W)) (d : BitVec W) :
    (encodeFrame samples d).length = samples.length + 3 := by
  simp only [encodeFrame_eq, List.length_cons, sampleEdges_length]

theorem forall_mem_sampleEdges {p : Inputs W → Prop} (h : ∀ x, p (Inputs.issue 0b001#3 x))
    (samples : List (BitVec W)) : ∀ i ∈ sampleEdges samples, p i :=
  List.forall_mem_map.mpr fun x _ => h x

theorem Regs.accepts_issue_sample (r : Regs W) (x : BitVec W) :
    r.accepts (Inputs.issue 0b001#3 x) = r.ready := rfl

/-- A SAMPLE changes neither STEP nor READY, so a READY block takes the samples after it too. -/
theorem Regs.next_issue_sample_keeps {r : Regs W} (hr : r.ready = true) (x : BitVec W) :
    (r.next (Inputs.issue 0b001#3 x)).step = r.step ∧
      (r.next (Inputs.issue 0b001#3 x)).ready = true := by
  rw [Regs.next_issue_sample hr, Regs.sampleAccepted_eq]
  exact ⟨rfl, hr⟩

theorem Regs.accepted_sampleEdges {r : Regs W} (hr : r.ready = true) (samples : List (BitVec W)) :
    r.accepted (sampleEdges samples) = samples.map (·, r.step) := by
  induction samples generalizing r with
  | nil => rfl
  | cons x xs ih =>
    obtain ⟨hstep, hready⟩ := Regs.next_issue_sample_keeps hr x
    rw [sampleEdges, List.map_cons,
      Regs.accepted_cons_of_accepts ((r.accepts_issue_sample x).trans hr), List.map_cons,
      ← sampleEdges, ih hready, hstep]
    rfl

theorem observeAt_sampleEdges_outValid (samples : List (BitVec W)) (s : StateAt W)
    (hr : s.regs.ready = true) :
    ∀ o ∈ observeAt samples.length (s.drive (sampleEdges samples)), o.outValid = true := by
  induction samples generalizing s with
  | nil => simp [observeAt, observeBy]
  | cons x xs ih =>
    obtain ⟨-, hready⟩ := Regs.next_issue_sample_keeps hr x
    rw [List.length_cons, sampleEdges, List.map_cons, observeAt_drive_cons]
    exact List.forall_mem_cons.mpr ⟨(s.regs.next_validQ _).trans hr, ih (s.withRegs _) hready⟩

end Samples

/-! ## ENCODE from any state -/

section Encode

variable {W : Nat}

/-- The registers after a valid SET_STEP from the reset state. -/
def Regs.configured (d : BitVec W) : Regs W := { Regs.reset W with step := d }

theorem Regs.configured_ready {d : BitVec W} (hd : 1 ≤ sint d) :
    (Regs.configured d).ready = true := by
  refine (Regs.ready_iff _).mpr ⟨fun h0 => ?_, rfl⟩
  have hzero : d = 0 := h0
  simp [hzero, sint] at hd

/-- ENCODE's three configuration edges write every register, so nothing of the state before is left
(42_frame.md R130). -/
theorem Regs.next_setStep_clearFlags_clear (r : Regs W) {d : BitVec W} (hd : 1 ≤ sint d) :
    ((r.next (Inputs.issue 0b011#3 0)).next (Inputs.issue 0b100#3 0)).next (Inputs.issue 0b010#3 d) =
      Regs.configured d :=
  Regs.setStep_of_valid _ hd

/-- The cycles of ENCODE: those of its three configuration edges, then those of the SAMPLEs. -/
theorem observeAt_encodeFrame (s : StateAt W) (samples : List (BitVec W)) {d : BitVec W}
    (hd : 1 ≤ sint d) :
    observeAt (samples.length + 3) (s.drive (encodeFrame samples d)) =
      s.regs.clear.outputs :: s.regs.clear.clearFlags.outputs :: (Regs.configured d).outputs ::
        observeAt samples.length ((s.withRegs (Regs.configured d)).drive (sampleEdges samples)) := by
  rw [encodeFrame_eq, observeAt_drive_cons, observeAt_drive_cons, observeAt_drive_cons]
  simp only [StateAt.withRegs_regs, Regs.next_setStep_clearFlags_clear _ hd]
  rfl

/-- A configured block that samples, and shows SAT = 0 in its last cycle, runs the source's encoder:
it takes every sample with STEP = `d` from the seed 0, and none of them clamps. -/
theorem observeAt_sampleEdges_eq_encodeRef (hW : 0 < W) (s : StateAt W) (samples : List (BitVec W))
    {d : BitVec W} (hd : 1 ≤ sint d) (hregs : s.regs = Regs.configured d)
    (hsat : ∀ o ∈ (s.regs.outputs ::
      observeAt samples.length (s.drive (sampleEdges samples))).getLast?, o.satBit = false) :
    (bitstream (observeAt samples.length (s.drive (sampleEdges samples))),
      (refTrace (observeAt samples.length (s.drive (sampleEdges samples)))).map sint) =
    encodeRef (samples.map sint) (sint d) := by
  have hstep : s.regs.step = d := congrArg Regs.step hregs
  have hacc : sint s.regs.acc = 0 := by simp [hregs, Regs.configured, sint]
  have haccepted : s.regs.accepted (sampleEdges samples) = samples.map (·, d) := by
    rw [Regs.accepted_sampleEdges (hregs ▸ Regs.configured_ready hd), hstep]
  have hlast := getLast?_outputs_cons_observeAt (sampleEdges samples) s
  rw [sampleEdges_length] at hlast
  have hfree := Regs.clampFree_of_sat_foldl_next (sampleEdges samples) (r := s.regs)
    (forall_mem_sampleEdges (fun _ => rfl) samples) (forall_mem_sampleEdges (fun _ => nofun) samples)
    ((Regs.outputs_satBit _).symm.trans (hsat _ hlast))
  have hrun := observeAt_eq_encodeRefFrom hW d (sampleEdges samples) s
    (forall_mem_sampleEdges (fun _ => rfl) samples) (by simp [haccepted]) hfree.2
  rw [sampleEdges_length, haccepted, hacc, List.map_map, List.map_map] at hrun
  exact hrun

end Encode

/-- Settles O47: after three configuration edges without output every SAMPLE is accepted, and SAT = 0 in
the last cycle makes them the source's encoder. -/
theorem encodeCallIsReferenceEncoder : Obligations.EncodeCallIsReferenceEncoder := by
  intro s samples d hd os
  have hos : os = observeAt (samples.length + 3) (s.toStateAt.drive (encodeFrame samples d)) :=
    observe_eq_observeAt _ _
  have hlength : os.length = samples.length + 3 := hos ▸ observeAt_length _ _
  refine ⟨encodeFrame_length samples d, hlength, ?_⟩
  rw [hos, observeAt_encodeFrame _ samples hd]
  refine ⟨?_, ?_, fun hsat => ?_⟩
  · simp [Regs.clear_eq, Regs.clearFlags_eq, Regs.configured]
  · exact observeAt_sampleEdges_outValid samples _ (Regs.configured_ready hd)
  · rw [List.getLast?_cons_cons, List.getLast?_cons_cons] at hsat
    rw [bitstream_cons_of_not_valid rfl, bitstream_cons_of_not_valid rfl,
      bitstream_cons_of_not_valid rfl, refTrace_cons_of_not_valid rfl, refTrace_cons_of_not_valid rfl,
      refTrace_cons_of_not_valid rfl]
    exact Prod.ext_iff.mp
      (observeAt_sampleEdges_eq_encodeRef (by decide) _ samples hd rfl hsat)

end Sys2Proof.Machine

/-!
PROOFS. SAMPLE's result on this hardware (40_datapath.md R80 to R87): the `W+1`-bit adder, the three
places the unclamped result can lie in, and from them the move, the clamp and the corners at the bounds.
-/

namespace Sys2Proof.Machine

/-! ## The adder -/

/-- Zero extension keeps a value that is not negative: it is sign extension there. -/
theorem toInt_zeroExtend_of_nonneg {W V : Nat} (h : W ≤ V) {v : BitVec W} (hv : 0 ≤ sint v) :
    (v.zeroExtend V).toInt = sint v := by
  have hmsb : v.msb = false := by
    rw [BitVec.msb_eq_toInt, decide_eq_false_iff_not]
    exact not_lt.mpr hv
  exact (congrArg BitVec.toInt (BitVec.signExtend_eq_setWidth_of_msb_false hmsb)).symm.trans
    (BitVec.toInt_signExtend_of_le h)

/-- The values of two words add up, and subtract, within the range of a word one bit wider. -/
theorem unclamped_range {W : Nat} (hW : 0 < W) (up : Bool) (acc : BitVec W) {step : BitVec W}
    (h : 0 ≤ sint step) :
    -2 ^ W ≤ unclamped up acc step ∧ unclamped up acc step < 2 ^ W := by
  have hpow : (2 : Int) ^ W = 2 * 2 ^ (W - 1) := (mul_pow_sub_one hW.ne' 2).symm
  have hacc := minInt_le_sint acc
  have hacc' := sint_le_maxInt acc
  have hstep := sint_le_maxInt step
  simp only [minInt, maxInt] at hacc hacc' hstep
  cases up <;> simp [unclamped] <;> omega

/-- Settles O38: both operands keep their value in `W+1` bits, and so does the result. -/
theorem adderHoldsExactResult : Obligations.AdderHoldsExactResult := by
  intro W up acc step hW h
  obtain ⟨lo, hi⟩ := unclamped_range (by omega) up acc h
  have hpow : ((2 ^ (W + 1) : Nat) : Int) = 2 * 2 ^ W := by push_cast; ring
  have hacc : (acc.signExtend (W + 1)).toInt = sint acc := BitVec.toInt_signExtend_of_le (by omega)
  have hstep := toInt_zeroExtend_of_nonneg (show W ≤ W + 1 by omega) h
  have hsum : (adder up acc step).toInt = (unclamped up acc step).bmod (2 ^ (W + 1)) := by
    cases up <;> simp only [adder, unclamped, Bool.false_eq_true, if_true, if_false,
      BitVec.toInt_add, BitVec.toInt_sub, hacc, hstep]
  exact hsum.trans (Int.bmod_eq_of_le_mul_two (by omega) (by omega))

/-! ## SAMPLE as the registers it leaves -/

theorem exec_sample_of_ready {s : State} (hr : s.regs.ready = true) (data : Word) :
    exec (.sample data) s = .next (s.withRegs (s.regs.sampleAccepted data)) := by
  rw [← Regs.sample_of_ready hr]
  exact exec_eq _ s

theorem exec_sample_of_not_ready {s : State} (hr : s.regs.ready = false) (data : Word) :
    exec (.sample data) s = .next (s.withRegs s.regs.sampleRefused) := by
  rw [← Regs.sample_of_not_ready hr data]
  exact exec_eq _ s

/-- The bit of an accepted SAMPLE is the comparator's (40_datapath.md R83). -/
theorem Regs.sampleAccepted_bitQ_iff {W : Nat} (r : Regs W) (data : BitVec W) :
    (r.sampleAccepted data).bitQ = true ↔ sint r.acc < sint data := by
  rw [Regs.sampleAccepted_eq]
  exact comparator_iff data r.acc

theorem Regs.sampleAccepted_bitQ_false_iff {W : Nat} (r : Regs W) (data : BitVec W) :
    (r.sampleAccepted data).bitQ = false ↔ sint data ≤ sint r.acc := by
  rw [← Bool.not_eq_true, Regs.sampleAccepted_bitQ_iff, not_lt]

/-- Where the unclamped result of an accepted SAMPLE can lie, and what ACC and SAT are then
(40_datapath.md R84, R85). -/
theorem Regs.sampleAccepted_cases {W : Nat} (hW : 0 < W) (r : Regs W) (data : BitVec W) :
    let r' := r.sampleAccepted data
    let u := unclamped r'.bitQ r.acc r.step
    (maxInt W < u ∧ sint r'.acc = maxInt W ∧ r'.sat = true) ∨
    (u < minInt W ∧ sint r'.acc = minInt W ∧ r'.sat = true) ∨
    (minInt W ≤ u ∧ u ≤ maxInt W ∧ sint r'.acc = u ∧ r'.sat = r.sat) := by
  rw [Regs.sampleAccepted_eq]
  simp only [sint_wordOf_clamp hW, saturates_eq_decide]
  obtain ⟨habove, hc⟩ | ⟨hbelow, -, hc⟩ | ⟨hlo, hhi, hc⟩ :=
    clamp_cases W (unclamped (comparator data r.acc) r.acc r.step)
  · exact .inl ⟨habove, hc, by simp [hc, habove.ne]⟩
  · exact .inr (.inl ⟨hbelow, hc, by simp [hc, hbelow.ne']⟩)
  · exact .inr (.inr ⟨hlo, hhi, hc, by simp [hc]⟩)

/-- Settles O16: such a state is not READY; the reset state is one. -/
theorem sampleRefusedResult : Obligations.SampleRefusedResult := by
  have hrefused (data : Word) (s : State) (h : s.regs.step = 0 ∨ s.regs.paramErr = true) :=
    exec_sample_of_not_ready (s.regs.ready_false_iff.mpr h) data
  exact ⟨hrefused, _, hrefused _ _ (.inl rfl), rfl, rfl, rfl⟩

/-- Settles O17: the bit is the comparator's, and words compare as the numbers they stand for. -/
theorem sampleBitIsStrictSignedCompare : Obligations.SampleBitIsStrictSignedCompare := by
  intro data s hr
  have hbit := s.regs.sampleAccepted_bitQ_iff data
  exact ⟨_, exec_sample_of_ready hr data, hbit, s.regs.sampleAccepted_bitQ_false_iff data,
    fun F => hbit.trans (value_lt_value_iff F s.regs.acc data).symm⟩

/-- Settles O15: the registers of an accepted SAMPLE, and with `1 <= STEP` the exact adder. -/
theorem sampleAcceptedResult : Obligations.SampleAcceptedResult := by
  intro data s hr a d t c
  refine ⟨?_, fun hinv => ?_⟩
  · rw [exec_sample_of_ready hr, Regs.sampleAccepted_eq_max_min]
    rfl
  · have hd : 1 ≤ d := Regs.one_le_step hr hinv.step_nonneg
    have ha : -32768 ≤ a ∧ a ≤ 32767 := sint_word_range s.regs.acc
    have hd' : d ≤ 32767 := (sint_word_range s.regs.step).2
    have ht : t = if a < sint data then a + d else a - d := rfl
    refine ⟨hd, ?_, ?_, ?_⟩
    · split at ht <;> omega
    · split at ht <;> omega
    · rw [adderHoldsExactResult 16 _ _ _ (by decide) hinv.step_nonneg]
      simp only [decide_eq_true_eq]
      rfl

/-- Settles O18: the three places the unclamped result can lie in exclude each other. -/
theorem sampleStepsOrSaturates : Obligations.SampleStepsOrSaturates := by
  intro data s hr
  refine ⟨_, exec_sample_of_ready hr data, rfl, ?_, ?_⟩
  · rw [State.withRegs_toStateAt, StateAt.withRegs_regs, Regs.sampleAccepted_eq]
  · intro u
    have hcases : (32767 < u ∧ _) ∨ (u < -32768 ∧ _) ∨ (-32768 ≤ u ∧ u ≤ 32767 ∧ _) :=
      s.regs.sampleAccepted_cases (by decide) data
    obtain ⟨habove, hr'⟩ | ⟨hbelow, hr'⟩ | ⟨hlo, hhi, hr'⟩ := hcases
    · exact ⟨fun _ _ => by omega, fun _ => hr', fun _ => by omega⟩
    · exact ⟨fun _ _ => by omega, fun _ => by omega, fun _ => hr'⟩
    · exact ⟨fun _ _ => hr', fun _ => by omega, fun _ => by omega⟩

/-! ## The corners at the bounds -/

/-- An UP or a DOWN of an accepted SAMPLE, with a STEP that is not negative, can pass only the bound it
moves toward; short of that bound, or on it, the move is exact and SAT is kept. -/
theorem exec_sample_moves {s t : State} {data : Word} (hinv : s.Inv) (hr : s.regs.ready = true)
    (ht : exec (.sample data) s = .next t) :
    (t.regs.bitQ = true → sint s.regs.acc + sint s.regs.step ≤ 32767 →
      sint t.regs.acc = sint s.regs.acc + sint s.regs.step ∧ t.regs.sat = s.regs.sat) ∧
    (t.regs.bitQ = false → -32768 ≤ sint s.regs.acc - sint s.regs.step →
      sint t.regs.acc = sint s.regs.acc - sint s.regs.step ∧ t.regs.sat = s.regs.sat) ∧
    (t.regs.bitQ = false → sint s.regs.acc - sint s.regs.step < -32768 →
      sint t.regs.acc = -32768 ∧ t.regs.sat = true) := by
  obtain ⟨t', ht', -, -, hinside, -, hbelow⟩ := sampleStepsOrSaturates data s hr
  obtain rfl : t' = t := Host.Outcome.next.inj (ht'.symm.trans ht)
  have hstep : 0 ≤ sint s.regs.step := hinv.step_nonneg
  obtain ⟨hlo, hhi⟩ := sint_word_range s.regs.acc
  refine ⟨fun hup hmax => ?_, fun hdown hmin => ?_, fun hdown hmin => ?_⟩
  · rw [if_pos hup] at hinside
    exact hinside (by omega) hmax
  · rw [if_neg (by simp [hdown])] at hinside
    exact hinside hmin (by omega)
  · rw [if_neg (by simp [hdown])] at hbelow
    exact hbelow hmin

/-- Settles O43: the compare gives the bit in each corner; STEP lies in `[1, MAX]`, so from a bound only
the sample MIN at MIN goes past one. -/
theorem cornersOfSampleAtTheBounds : Obligations.CornersOfSampleAtTheBounds := by
  intro data s hinv hr
  obtain ⟨t, ht, hup, hdown, -⟩ := sampleBitIsStrictSignedCompare data s hr
  obtain ⟨hmoveUp, hmoveDown, hclampDown⟩ := exec_sample_moves hinv hr ht
  have hstep : 1 ≤ sint s.regs.step := Regs.one_le_step hr hinv.step_nonneg
  have hstep' : sint s.regs.step ≤ 32767 := (sint_word_range s.regs.step).2
  have hacc : -32768 ≤ sint s.regs.acc := (sint_word_range s.regs.acc).1
  obtain ⟨hlo, hhi⟩ := sint_word_range data
  refine ⟨t, ht, fun hmax => ?atMax, fun hmin hne => ?upFromMin, fun hmin heq => ?clampAtMin,
    fun hdata => ?sampleMin, fun hbit hland => ?landOnMax, fun hbit hland => ?landOnMin⟩
  case atMax =>
    have hbit := hdown.mpr (by omega)
    exact ⟨hbit, hmax ▸ hmoveDown hbit (by omega)⟩
  case upFromMin =>
    have hbit := hup.mpr (by omega)
    exact ⟨hbit, hmin ▸ hmoveUp hbit (by omega)⟩
  case clampAtMin =>
    have hbit := hdown.mpr (by omega)
    exact ⟨hbit, hclampDown hbit (by omega)⟩
  case sampleMin =>
    have hmin : sint data = -32768 := hdata ▸ rfl
    exact hdown.mpr (by omega)
  case landOnMax => exact hland ▸ hmoveUp hbit (by omega)
  case landOnMin => exact hland ▸ hmoveDown hbit (by omega)

end Sys2Proof.Machine

/-!
PROOFS. What the control commands leave in each register and on the ports (41_control.md R100 to R108), and
which results of the next SAMPLE they change.
-/

namespace Sys2Proof.Machine

/-! ## NOP -/

/-- A command answers the registers its effect is known to be. -/
theorem exec_of_effect {i : Instr} {s : State} {r : Regs Config.W}
    (h : s.regs.effect i.command = r) : exec i s = .next (s.withRegs r) := by
  rw [exec_eq, h]

/-- SAMPLE reads neither VALID_Q nor ILL_CMD. The first it writes, whether it is accepted or refused; the
second it keeps. -/
theorem Regs.sample_of_validQ_illCmd {W : Nat} (r : Regs W) (valid ill : Bool) (x : BitVec W) :
    ({ r with validQ := valid, illCmd := ill || r.illCmd } : Regs W).sample x =
      { r.sample x with illCmd := ill || (r.sample x).illCmd } := by
  obtain ⟨hr, hs⟩ | ⟨hr, hs⟩ := r.sample_cases x
  · rw [hs, Regs.sample_of_ready (by exact hr), Regs.sampleAccepted_eq, Regs.sampleAccepted_eq]
  · rw [hs, Regs.sample_of_not_ready (by exact hr), Regs.sampleRefused_eq, Regs.sampleRefused_eq]

theorem Regs.nop_sample {W : Nat} (r : Regs W) (x : BitVec W) : r.nop.sample x = r.sample x :=
  r.sample_of_validQ_illCmd false false x

theorem exec_sample_withRegs (s : State) (r : Regs Config.W) (x : Word) :
    exec (.sample x) (s.withRegs r) = .next (s.withRegs (r.sample x)) := exec_eq _ _

/-- SAMPLE after NOP answers the state it answers without the NOP. -/
theorem exec_sample_after_nop (x : Word) (s : State) :
    exec (.sample x) (s.withRegs s.regs.nop) = exec (.sample x) s := by
  rw [exec_sample_withRegs, Regs.nop_sample]
  exact (exec_eq (.sample x) s).symm

/-- Settles O14: NOP's effect drops the strobe, which SAMPLE does not read; an edge without a command
has the same effect. -/
theorem nopResult : Obligations.NopResult :=
  ⟨fun _ s => exec_eq _ s, decode_append _, fun _ => step_of_not_cmdValid,
    fun _ x s => ⟨_, exec_eq _ s, exec_sample_after_nop x s, rfl, rfl, rfl⟩⟩

/-! ## A valid SET_STEP -/

theorem getLsbD_last_iff_sint_neg {W : Nat} (v : BitVec W) :
    v.getLsbD (W - 1) = true ↔ sint v < 0 := by
  rw [← BitVec.msb_eq_getLsbD_last, BitVec.msb_eq_toInt, decide_eq_true_iff]
  rfl

theorem sint_eq_zero_iff {W : Nat} (v : BitVec W) : sint v = 0 ↔ v = 0 :=
  ⟨fun h => sint_inj (h.trans BitVec.toInt_zero.symm), fun h => h ▸ BitVec.toInt_zero⟩

/-- A Step Size is valid where its sign bit is 0 and it is not 0 (41_control.md R102). -/
theorem one_le_sint_iff {W : Nat} (v : BitVec W) :
    1 ≤ sint v ↔ v.getLsbD (W - 1) = false ∧ v ≠ 0 := by
  rw [← Bool.not_eq_true, getLsbD_last_iff_sint_neg, ne_eq, ← sint_eq_zero_iff]
  omega

theorem Regs.setStep_ready {W : Nat} (r : Regs W) {data : BitVec W} (h : 1 ≤ sint data) :
    (r.setStep data).ready = true := by
  rw [Regs.setStep_of_valid r h, Regs.ready_iff]
  exact ⟨((one_le_sint_iff data).mp h).2, rfl⟩

/-- The reference after an accepted SAMPLE, with this hardware's bounds (40_datapath.md R81). -/
theorem sint_sampleAccepted_acc_config (r : Regs Config.W) (x : Word) :
    sint (r.sampleAccepted x).acc = max (-32768) (min 32767
      (if sint r.acc < sint x then sint r.acc + sint r.step else sint r.acc - sint r.step)) := by
  rw [Regs.sampleAccepted_eq, sint_wordOf_clamp (by decide), clamp_eq_max_min, unclamped_comparator,
    minInt_config, maxInt_config]

@[simp] theorem Regs.sampleAccepted_validQ {W : Nat} (r : Regs W) (x : BitVec W) :
    (r.sampleAccepted x).validQ = true := by
  rw [Regs.sampleAccepted_eq]

@[simp] theorem Regs.sampleAccepted_step {W : Nat} (r : Regs W) (x : BitVec W) :
    (r.sampleAccepted x).step = r.step := by
  rw [Regs.sampleAccepted_eq]

/-- A command that leaves the block READY is followed by an accepted SAMPLE. -/
theorem exec_sample_withRegs_of_ready {r : Regs Config.W} (hr : r.ready = true) (s : State)
    (x : Word) :
    exec (.sample x) (s.withRegs r) = .next (s.withRegs (r.sampleAccepted x)) := by
  rw [exec_sample_withRegs, Regs.sample_of_ready hr]

theorem exec_setStep_of_valid {data : Word} (h : 1 ≤ sint data) (s : State) :
    exec (.setStep data) s =
      .next (s.withRegs { s.regs with step := data, paramErr := false, validQ := false }) :=
  exec_of_effect (s.regs.setStep_of_valid h)

/-- Settles O19: a valid operand is written with PARAM_ERR at 0, which makes the block READY with that
STEP, so the next SAMPLE is accepted and moves by it. -/
theorem setStepValidResult : Obligations.SetStepValidResult := by
  refine ⟨fun data s h => exec_setStep_of_valid h s,
    fun data => ⟨one_le_sint_iff data, (sint_word_range data).2⟩,
    fun data x s h => ?_,
    decode_append _,
    by decide, by decide,
    _, exec_setStep_of_valid (by decide) _, rfl, by decide⟩
  have hready : (s.regs.setStep data).ready = true := s.regs.setStep_ready h
  refine ⟨_, _, exec_eq _ s, hready, (exec_eq_next_self_iff _ _).mpr (s.regs.setStep_setStep data),
    exec_sample_withRegs_of_ready hready s x, Regs.sampleAccepted_validQ _ x, ?_⟩
  refine (sint_sampleAccepted_acc_config (s.regs.setStep data) x).trans ?_
  rw [Regs.setStep_of_valid s.regs h]

/-! ## An invalid SET_STEP -/

theorem exec_setStep_of_invalid {data : Word} (h : sint data ≤ 0) (s : State) :
    exec (.setStep data) s = .next (s.withRegs { s.regs with paramErr := true, validQ := false }) :=
  exec_of_effect (s.regs.setStep_of_invalid h)

theorem Regs.not_ready_of_paramErr {W : Nat} {r : Regs W} (h : r.paramErr = true) :
    r.ready = false :=
  r.ready_false_iff.mpr (.inr h)

/-- Settles O20: PARAM_ERR makes the block not READY, whatever STEP is; the three ways to clear it leave
it at 0. -/
theorem setStepInvalidResult : Obligations.SetStepInvalidResult :=
  ⟨fun _ s h => exec_setStep_of_invalid h s,
    fun x _ h => ⟨Regs.not_ready_of_paramErr h,
      exec_sample_of_not_ready (Regs.not_ready_of_paramErr h) x⟩,
    fun _ s h => ⟨_, exec_setStep_of_valid h s, rfl⟩,
    fun _ s => ⟨_, exec_eq _ s, rfl⟩,
    fun _ h => ⟨_, step_of_rst h, rfl⟩,
    by decide,
    fun data h => ((getLsbD_last_iff_sint_neg data).mp h).le,
    by decide,
    fun s h => ⟨_, exec_setStep_of_invalid (by decide) s, h, rfl, Regs.not_ready_of_paramErr rfl⟩⟩

/-! ## CLEAR -/

/-- Settles O21: CLEAR's effect ignores its operand, so the second one is the first one again. -/
theorem clearResult : Obligations.ClearResult := fun data _ s =>
  ⟨_, decode_append _ data, exec_eq _ s, rfl, rfl,
    (exec_eq_next_self_iff _ _).mpr s.regs.clear_clear⟩

/-! ## CLEAR_FLAGS -/

/-- After CLEAR_FLAGS READY follows STEP (41_control.md R106). -/
theorem Regs.clearFlags_ready {W : Nat} (r : Regs W) : r.clearFlags.ready = !(r.step == 0) := by
  simp [Regs.clearFlags_eq, Regs.ready]

/-- STATUS with the four sticky flags at 0 is READY alone (10_state.md R34). -/
theorem Regs.clearFlags_statusWord {W : Nat} (r : Regs W) :
    r.clearFlags.statusWord = if r.clearFlags.ready then 0x01#8 else 0x00#8 := by
  refine BitVec.eq_of_getLsbD_eq fun n hn => ?_
  rw [Regs.statusWord_getLsbD]
  cases r.clearFlags.ready <;> interval_cases n <;> rfl

/-- Settles O22: with the flags at 0 both READY and STATUS are read from STEP, which is kept. -/
theorem clearFlagsResult : Obligations.ClearFlagsResult := by
  refine ⟨decode_append _, fun _ s => exec_eq _ s, fun data x s h => ?_, fun data s h => ?_⟩
  · have hready : s.regs.clearFlags.ready = true := by simpa [Regs.clearFlags_ready] using h
    exact ⟨_, _, exec_eq _ s, hready, (s.regs.clearFlags_statusWord).trans (if_pos hready),
      exec_sample_withRegs_of_ready hready s x, Regs.sampleAccepted_validQ _ x,
      Regs.sampleAccepted_step _ x⟩
  · have hready : s.regs.clearFlags.ready = false := by simpa [Regs.clearFlags_ready] using h
    exact ⟨_, exec_eq _ s, hready,
      (s.regs.clearFlags_statusWord).trans (if_neg (by simp [hready]))⟩

/-! ## The reserved commands -/

/-- A reserved command sets bit 3 of STATUS and keeps the others (10_state.md R34). -/
theorem Regs.reserved_statusWord {W : Nat} (r : Regs W) :
    r.reserved.statusWord = r.statusWord ||| 0x08#8 := by
  refine BitVec.eq_of_getLsbD_eq fun n hn => ?_
  rw [BitVec.getLsbD_or, Regs.statusWord_getLsbD, Regs.statusWord_getLsbD]
  interval_cases n <;> simp [Regs.reserved_eq, Regs.ready]

theorem Regs.reserved_sample {W : Nat} (r : Regs W) (x : BitVec W) :
    r.reserved.sample x = { r.sample x with illCmd := true } :=
  r.sample_of_validQ_illCmd false true x

theorem exec_reserved {i : Instr} {data : Word}
    (hi : i = .rsv5 data ∨ i = .rsv6 data ∨ i = .rsv7 data) (s : State) :
    exec i s = .next (s.withRegs s.regs.reserved) := by
  obtain rfl | rfl | rfl := hi <;> exact exec_eq _ s

/-- Settles O23: the three commands have one effect, which raises ILL_CMD and so bit 3 of STATUS; no
SAMPLE reads that flag. -/
theorem reservedResult : Obligations.ReservedResult := by
  refine ⟨fun data => ⟨decode_append _ data, decode_append _ data, decode_append _ data⟩,
    fun i data x s hi => ?_⟩
  refine ⟨_, _, _, exec_reserved hi s, rfl, s.regs.reserved_statusWord, exec_eq _ s,
    (exec_sample_after_nop x s).trans (exec_eq _ s), ?_⟩
  rw [exec_sample_withRegs, Regs.reserved_sample]
  rfl

end Sys2Proof.Machine

/-!
PROOFS. Frames and calls of ENCODE (42_frame.md R120 to R130): what one SAMPLE does to the reference, how
many outputs a run has, that a frame in which SAT shows no clamp is the source's encoder over the integers
and over the numbers the words stand for, and what a call shows whatever came before it.
-/

namespace Sys2Proof.Machine

/-! ## One SAMPLE -/

/-- Settles O41: with a STEP that is not negative, a move past a bound started within it, so the clamp
cuts it short; inside the bounds the move is the step itself. -/
theorem referenceMovesByExactlyTheStep : Obligations.ReferenceMovesByExactlyTheStep := by
  intro data s hinv hr
  obtain ⟨t, ht, -, -, hinside, habove, hbelow⟩ := sampleStepsOrSaturates data s hr
  refine ⟨t, ht, ?_⟩
  intro u moved
  have hstep : 0 ≤ sint s.regs.step := hinv.step_nonneg
  obtain ⟨hlo, hhi⟩ := sint_word_range s.regs.acc
  have hu : u = sint s.regs.acc + sint s.regs.step ∨ u = sint s.regs.acc - sint s.regs.step :=
    ite_eq_or_eq _ _ _
  refine ⟨fun ⟨hmin, hmax⟩ => ?_, fun hout => ?_⟩
  · obtain ⟨hacc, hsat⟩ := hinside hmin hmax
    exact ⟨hacc, by omega, hsat⟩
  · rcases lt_or_ge 32767 u with hmax | hmax
    · obtain ⟨hacc, hsat⟩ := habove hmax
      exact ⟨by omega, hsat⟩
    · obtain ⟨hacc, hsat⟩ := hbelow (by omega)
      exact ⟨by omega, hsat⟩

/-- Settles O42: a sample that is not greater gives DOWN, which moves by the step or stops at MIN. -/
theorem tieGivesDown : Obligations.TieGivesDown := by
  intro data s hinv hr htie
  obtain ⟨t, ht, -, hdown, -⟩ := sampleBitIsStrictSignedCompare data s hr
  obtain ⟨-, hmoveDown, hclampDown⟩ := exec_sample_moves hinv hr ht
  have hbit := hdown.mpr htie.le
  refine ⟨t, ht, hbit, ?_⟩
  split
  next hbelow => exact (hclampDown hbit hbelow).1
  next hexact => exact (hmoveDown hbit (not_lt.mp hexact)).1

/-! ## The commands between the samples -/

/-- An edge without reset whose command is none of SAMPLE, SET_STEP and CLEAR holds the reference, the
step and the bit, shows no output, and does not raise PARAM_ERR. -/
theorem Regs.next_holds_reference {W : Nat} (r : Regs W) {i : Inputs W} (hrst : i.rst = false)
    (hsample : i.op ≠ 0b001#3) (hset : i.op ≠ 0b010#3) (hclear : i.op ≠ 0b011#3) :
    (r.next i).acc = r.acc ∧ (r.next i).step = r.step ∧ (r.next i).bitQ = r.bitQ ∧
      (r.next i).validQ = false ∧ (r.paramErr = false → (r.next i).paramErr = false) := by
  have hb : beginsFrame i = false := by simp [beginsFrame, hrst, hclear]
  have ha : r.accepts i = false := by simp [Regs.accepts, hsample]
  obtain ⟨hacc, hbit, hvalid⟩ := Regs.next_held hb ha
  have hstep := r.next_step_held hrst fun h => hset ((i.performs_iff (by decide)).mp h.1).2
  have hflag := r.next_flag_iff i .paramErr
  simp only [Regs.flag, Regs.raises, hset, false_and, false_or] at hflag
  refine ⟨hacc, hstep, hbit, hvalid, fun hp => ?_⟩
  rw [← Bool.not_eq_true, hflag, hp]
  simp

/-- Settles O51: such ports carry NOP, CLEAR_FLAGS or a reserved command, which hold STEP; READY follows
STEP where PARAM_ERR stays 0. -/
theorem otherCommandsKeepTheReference : Obligations.OtherCommandsKeepTheReference := by
  intro s hrst hports
  have hop : s.ports.op ≠ 0b001#3 ∧ s.ports.op ≠ 0b010#3 ∧ s.ports.op ≠ 0b011#3 := by
    unfold Inputs.op
    split
    next hvalid =>
      obtain h | h | h | h | h | h := hports
      · exact absurd hvalid (by simp [h])
      all_goals rw [h]; decide
    next => decide
  obtain ⟨hacc, hstep, hbit, hvalid, hparam⟩ :=
    s.regs.next_holds_reference hrst hop.1 hop.2.1 hop.2.2
  refine ⟨_, step_eq s, hacc, hstep, hbit, hvalid, fun hp => ?_⟩
  change (s.regs.next s.ports).ready = s.regs.ready
  rw [Regs.ready, Regs.ready, hstep, hparam hp, hp]

/-! ## How many outputs a run has -/

/-- One cycle with `out_valid = 1` per accepted SAMPLE (10_state.md R31). -/
theorem length_filter_outValid_observeAt {W : Nat} (is : List (Inputs W)) (s : StateAt W) :
    ((observeAt is.length (s.drive is)).filter Outputs.outValid).length =
      (s.regs.accepted is).length := by
  induction is generalizing s with
  | nil => rfl
  | cons i is ih =>
    have hvalid : (s.regs.next i).outputs.outValid = s.regs.accepts i := s.regs.next_validQ i
    have ih := ih (s.withRegs (s.regs.next i))
    rw [List.length_cons, observeAt_drive_cons, List.filter_cons, hvalid]
    cases ha : s.regs.accepts i with
    | true =>
      rw [if_pos rfl, Regs.accepted_cons_of_accepts ha, List.length_cons, List.length_cons, ih]
      rfl
    | false =>
      rw [if_neg Bool.false_ne_true, Regs.accepted_cons_of_not_accepts ha, ih]
      rfl

/-- Settles O46: the Bitstream and the Reference Trace are read from the same cycles. -/
theorem oneOutputPerAcceptedSample : Obligations.OneOutputPerAcceptedSample := by
  intro s is os
  have hos : os = observeAt is.length (s.toStateAt.drive is) := observe_eq_observeAt _ _
  have hcount := length_filter_outValid_observeAt is s.toStateAt
  rw [hos]
  exact ⟨observeAt_length _ _, (List.length_map _).trans hcount, (List.length_map _).trans hcount⟩

/-! ## Frames in which nothing clamped -/

/-- SAT = 0 in the cycle after every accepted SAMPLE: none of them clamped (42_frame.md R126). -/
theorem clampFree_of_forall_satBit {W : Nat} (is : List (Inputs W)) (s : StateAt W)
    (h : ∀ o ∈ observeAt is.length (s.drive is), o.outValid = true → o.satBit = false) :
    s.regs.clampFree is = true := by
  induction is generalizing s with
  | nil => rfl
  | cons i is ih =>
    rw [List.length_cons, observeAt_drive_cons] at h
    obtain ⟨hsat, hsats⟩ := List.forall_mem_cons.mp h
    refine (s.regs.clampFree_cons_iff i is).mpr ⟨fun ha => ?_, ih (s.withRegs (s.regs.next i)) hsats⟩
    obtain ⟨hrst, hop, -⟩ := (s.regs.accepts_iff i).mp ha
    have hsat' := hsat ((s.regs.next_validQ i).trans ha)
    rw [Regs.outputs_satBit] at hsat'
    exact (Regs.next_sat_eq_false hrst (by rw [hop]; decide) hsat').2 ha

/-- The three ways to know that nothing clamped in a frame come to the first, its unclamped results. -/
theorem clampFree_of_noClampKnown {W : Nat} (s : StateAt W) (start : Inputs W) (body : List (Inputs W))
    (hbody : ∀ i ∈ body, beginsFrame i = false)
    (h : let os := observeAt (body.length + 1) (s.drive (start :: body))
      (s.regs.next start).clampFree body = true ∨
        (∀ o ∈ os, o.outValid = true → o.satBit = false) ∨
        ((∀ i ∈ body, i.performs 0b100#3 = false) ∧ ∀ o ∈ os.getLast?, o.satBit = false)) :
    (s.regs.next start).clampFree body = true := by
  simp only [observeAt_drive_cons] at h
  obtain hfree | hseen | ⟨hkeep, hlast⟩ := h
  · exact hfree
  · exact clampFree_of_forall_satBit body (s.withRegs (s.regs.next start))
      (List.forall_mem_cons.mp hseen).2
  · have hrst : ∀ i ∈ body, i.rst = false := fun i hi =>
      (Bool.or_eq_false_iff.mp (hbody i hi)).1
    have hop : ∀ i ∈ body, i.op ≠ 0b100#3 := fun i hi hop =>
      Bool.false_ne_true
        ((hkeep i hi).symm.trans ((i.performs_iff (by decide)).mpr ⟨hrst i hi, hop⟩))
    have hsat := hlast _ (getLast?_outputs_cons_observeAt body (s.withRegs (s.regs.next start)))
    rw [Regs.outputs_satBit] at hsat
    exact (Regs.clampFree_of_sat_foldl_next body hrst hop hsat).2

/-- Settles O45: the decoder's part of the statement for every width, at 16. -/
theorem frameTraceIsDecoderRecurrence : Obligations.FrameTraceIsDecoderRecurrence := by
  intro s start body d hstart hbody hd os hclamp
  have hos : os = observeAt (body.length + 1) (s.toStateAt.drive (start :: body)) :=
    observe_eq_observeAt _ _
  rw [hos] at hclamp ⊢
  obtain ⟨-, -, hdecode⟩ := frameAtEveryWidth 16 s.toStateAt start body d (by decide) hstart hbody hd
    (clampFree_of_noClampKnown _ start body hbody hclamp)
  exact hdecode

/-! ## The encoder over the numbers the words stand for -/

/-- The number that an integer of `F` fraction bits stands for (00_scope.md R15). -/
def scaled (F : Nat) : Int →+ ℚ where
  toFun i := (i : ℚ) / 2 ^ F
  map_zero' := by simp
  map_add' a b := by rw [Int.cast_add, add_div]

theorem value_eq_scaled {W : Nat} (F : Nat) (v : BitVec W) : value F v = scaled F (sint v) := rfl

theorem scaled_strictMono (F : Nat) : StrictMono (scaled F) := fun a b h =>
  div_lt_div_of_pos_right (Int.cast_lt.mpr h) (by positivity)

theorem map_value_eq {W : Nat} (F : Nat) (vs : List (BitVec W)) :
    vs.map (value F) = (vs.map sint).map (scaled F) := by
  rw [List.map_map]
  rfl

/-- The encoder only compares, adds and subtracts, so it commutes with a map that keeps order and sums:
the same bits, and the trace mapped. -/
theorem encodeRefFrom_map (f : Int →+ ℚ) (hf : StrictMono f) (d r : Int) (ss : List Int) :
    encodeRefFrom (f d) (f r) (ss.map f) =
      Prod.map id (List.map f) (encodeRefFrom d r ss) := by
  induction ss generalizing r with
  | nil => rfl
  | cons s ss ih =>
    by_cases h : r < s <;>
      simp [encodeRefFrom, hf.lt_iff_lt, h, ← map_add, ← map_sub, ih]

theorem encodeRef_value {W : Nat} (F : Nat) (samples : List (BitVec W)) (d : BitVec W) :
    encodeRef (samples.map (value F)) (value F d) =
      Prod.map id (List.map (scaled F)) (encodeRef (samples.map sint) (sint d)) := by
  rw [map_value_eq, value_eq_scaled, encodeRef, encodeRef,
    ← encodeRefFrom_map (scaled F) (scaled_strictMono F), map_zero]

/-- Settles O44: over the integers it is the statement for every width, at 16; the words' numbers keep
the integers' order, sums and differences. -/
theorem frameIsReferenceEncoder : Obligations.FrameIsReferenceEncoder := by
  intro s start body d hstart hbody hd os hclamp samples
  have hos : os = observeAt (body.length + 1) (s.toStateAt.drive (start :: body)) :=
    observe_eq_observeAt _ _
  rw [hos] at hclamp ⊢
  obtain ⟨hbits, htrace, -⟩ := frameAtEveryWidth 16 s.toStateAt start body d (by decide) hstart hbody
    hd (clampFree_of_noClampKnown _ start body hbody hclamp)
  refine ⟨hbits, htrace, fun F => ?_⟩
  rw [encodeRef_value]
  refine ⟨hbits, ?_⟩
  rw [map_value_eq, htrace]
  rfl

/-! ## A run without a SAMPLE -/

theorem Regs.accepted_eq_nil {W : Nat} (is : List (Inputs W)) (r : Regs W)
    (h : ∀ i ∈ is, i.performs 0b001#3 = false) : r.accepted is = [] := by
  induction is generalizing r with
  | nil => rfl
  | cons i is ih =>
    obtain ⟨hi, his⟩ := List.forall_mem_cons.mp h
    have ha : r.accepts i = false := by rw [Regs.accepts_eq_performs, hi, Bool.false_and]
    rw [Regs.accepted_cons_of_not_accepts ha, ih _ his]

/-- A configured block has no error flag: STATUS is READY alone. -/
theorem Regs.configured_statusWord {W : Nat} {d : BitVec W} (hd : 1 ≤ sint d) :
    (Regs.configured d).statusWord = 0x01#8 :=
  (Regs.clearFlags_statusWord (Regs.configured d)).trans (if_pos (Regs.configured_ready hd))

/-- Settles O50: without a SAMPLE none is accepted, so there is no output; ENCODE of no samples ends with
SET_STEP's cycle. -/
theorem emptyFrameHasNoOutput : Obligations.EmptyFrameHasNoOutput := by
  refine ⟨fun s is h => ?_, fun s d hd => ?_⟩
  · obtain ⟨-, hbits, htrace⟩ := oneOutputPerAcceptedSample s is
    rw [Regs.accepted_eq_nil is s.regs h] at hbits htrace
    exact ⟨List.eq_nil_of_length_eq_zero hbits, List.eq_nil_of_length_eq_zero htrace⟩
  · have hos : observe 3 (s.drive (encodeFrame [] d)) = _ :=
      (observe_eq_observeAt _ _).trans (observeAt_encodeFrame s.toStateAt [] hd)
    rw [hos]
    exact ⟨(Regs.configured d).outputs, rfl, Regs.configured_statusWord hd, rfl, rfl⟩

/-! ## A call of ENCODE -/

/-- ENCODE's three configuration edges have no output, so the call's are those of its SAMPLEs on the
configured block. -/
theorem outputs_observeAt_encodeFrame {W : Nat} (s : StateAt W) (samples : List (BitVec W))
    {d : BitVec W} (hd : 1 ≤ sint d) :
    let os := observeAt (samples.length + 3) (s.drive (encodeFrame samples d))
    let sampled := observeAt samples.length ⟨Regs.configured d, sampleEdges samples⟩
    bitstream os = bitstream sampled ∧ refTrace os = refTrace sampled := by
  simp only [observeAt_encodeFrame s samples hd]
  rw [bitstream_cons_of_not_valid rfl, bitstream_cons_of_not_valid rfl,
    bitstream_cons_of_not_valid rfl, refTrace_cons_of_not_valid rfl, refTrace_cons_of_not_valid rfl,
    refTrace_cons_of_not_valid rfl]
  exact ⟨rfl, rfl⟩

/-- Settles O48: SET_STEP's cycle shows the configured block, which no longer depends on the state
before, and so do the SAMPLEs' cycles, which have all the outputs. -/
theorem encodeIgnoresPriorState : Obligations.EncodeIgnoresPriorState := by
  intro s s' samples d hd
  simp only [observe_eq_observeAt, State.drive_toStateAt]
  obtain ⟨hbits, htrace⟩ := outputs_observeAt_encodeFrame s.toStateAt samples hd
  obtain ⟨hbits', htrace'⟩ := outputs_observeAt_encodeFrame s'.toStateAt samples hd
  refine ⟨?_, hbits.trans hbits'.symm, htrace.trans htrace'.symm⟩
  rw [observeAt_encodeFrame _ samples hd, observeAt_encodeFrame _ samples hd]
  rfl

/-! ## A failed call of ENCODE -/

/-- SAMPLEs to a block that is not READY: each is refused, and after the first nothing changes. -/
theorem observeAt_sampleEdges_of_not_ready {W : Nat} (samples : List (BitVec W)) (s : StateAt W)
    (hr : s.regs.ready = false) :
    observeAt samples.length (s.drive (sampleEdges samples)) =
      List.replicate samples.length s.regs.sampleRefused.outputs := by
  induction samples generalizing s with
  | nil => rfl
  | cons x xs ih =>
    have hnext : s.regs.next (Inputs.issue 0b001#3 x) = s.regs.sampleRefused :=
      Regs.sample_of_not_ready hr x
    rw [List.length_cons, sampleEdges, List.map_cons, observeAt_drive_cons, hnext,
      List.replicate_succ]
    exact congrArg _ (ih (s.withRegs s.regs.sampleRefused) hr)

/-- The registers ENCODE leaves where its SET_STEP is invalid: a new frame, STEP as it was, and PARAM_ERR
alone among the flags. -/
def Regs.misconfigured {W : Nat} (r : Regs W) : Regs W :=
  { Regs.reset W with step := r.step, paramErr := true }

theorem Regs.next_invalid_setStep_clearFlags_clear {W : Nat} (r : Regs W) {d : BitVec W}
    (hd : sint d ≤ 0) :
    ((r.next (Inputs.issue 0b011#3 0)).next (Inputs.issue 0b100#3 0)).next (Inputs.issue 0b010#3 d) =
      r.misconfigured :=
  Regs.setStep_of_invalid _ hd

/-- The cycles of ENCODE with a step that is not positive: after SET_STEP's, PARAM_ERR keeps the block
from taking any SAMPLE. -/
theorem observeAt_encodeFrame_of_invalid {W : Nat} (s : StateAt W) (samples : List (BitVec W))
    {d : BitVec W} (hd : sint d ≤ 0) :
    observeAt (samples.length + 3) (s.drive (encodeFrame samples d)) =
      s.regs.clear.outputs :: s.regs.clear.clearFlags.outputs :: s.regs.misconfigured.outputs ::
        List.replicate samples.length s.regs.misconfigured.sampleRefused.outputs := by
  rw [encodeFrame_eq, observeAt_drive_cons, observeAt_drive_cons, observeAt_drive_cons]
  simp only [StateAt.withRegs_regs, Regs.next_invalid_setStep_clearFlags_clear _ hd]
  rw [observeAt_sampleEdges_of_not_ready samples _ (Regs.not_ready_of_paramErr rfl)]
  rfl

theorem outputs_eq_nil_of_not_valid {W : Nat} {os : List (Outputs W)}
    (h : ∀ o ∈ os, o.outValid = false) : bitstream os = [] ∧ refTrace os = [] := by
  have hnone : os.filter Outputs.outValid = [] :=
    List.filter_eq_nil_iff.mpr fun o ho => Bool.eq_false_iff.mp (h o ho)
  exact ⟨congrArg _ hnone, congrArg _ hnone⟩

/-- Settles O49: the cycles are those of CLEAR, CLEAR_FLAGS, the invalid SET_STEP and the refused SAMPLEs,
and each is read off its registers. -/
theorem failedCallHasNoOutput : Obligations.FailedCallHasNoOutput := by
  intro s samples d hd os
  have hlength : os.length = samples.length + 3 :=
    (congrArg List.length (observe_eq_observeAt _ _)).trans (observeAt_length _ _)
  have hos : os = _ :=
    (observe_eq_observeAt _ _).trans (observeAt_encodeFrame_of_invalid s.toStateAt samples hd)
  have hquiet : ∀ o ∈ os, o.outValid = false := by
    simp [hos, Regs.clear_eq, Regs.clearFlags_eq, Regs.sampleRefused_eq, Regs.misconfigured]
  obtain ⟨hbits, htrace⟩ := outputs_eq_nil_of_not_valid hquiet
  have hset := s.regs.misconfigured.statusWord_getLsbD
  have hrefused := s.regs.misconfigured.sampleRefused.statusWord_getLsbD
  refine ⟨hlength, hbits, htrace, ?_⟩
  rw [hos]
  refine ⟨List.forall_mem_cons.mpr ⟨hset 1, fun o ho => ?_⟩, fun o ho => ?_, fun o ho => ?_⟩
  · exact List.eq_of_mem_replicate ho ▸ hrefused 1
  · exact List.eq_of_mem_replicate ho ▸ hrefused 2
  · exact Option.some.inj ho ▸ hset 2

end Sys2Proof.Machine

/-!
PROOFS. The priority of errors (60_exceptions.md R145): the opcode and READY fix the one condition a
command can raise, so no two flags rise at the same edge.
-/

namespace Sys2Proof.Machine

/-- The one condition a command with this opcode can raise on these registers, if any (60_exceptions.md
R145 (3)). -/
def Regs.possibleError {W : Nat} (r : Regs W) (op : BitVec 3) : Option ErrorCond :=
  match Opcode.ofBits op with
  | .nop | .clear | .clearFlags => none
  | .sample => some (if r.ready then .sat else .sampleRej)
  | .setStep => some .paramErr
  | .rsv5 | .rsv6 | .rsv7 => some .illCmd

theorem Regs.possibleError_of_raises {W : Nat} {r : Regs W} {op : BitVec 3} {data : BitVec W}
    {c : ErrorCond} (h : r.raises op data c) : r.possibleError op = some c := by
  cases c with
  | paramErr =>
    obtain ⟨rfl, -⟩ := h
    rfl
  | sampleRej =>
    obtain ⟨rfl, hr⟩ := h
    exact congrArg some (if_neg (Bool.eq_false_iff.mp hr))
  | illCmd => obtain rfl | rfl | rfl := h <;> rfl
  | sat =>
    obtain ⟨rfl, hr, -⟩ := h
    exact congrArg some (if_pos hr)

/-- A flag that rises at an edge was set there: it cannot have been kept. -/
theorem Regs.raises_of_flag_rises {W : Nat} {r : Regs W} {i : Inputs W} {c : ErrorCond}
    (hbefore : r.flag c = false) (hafter : (r.next i).flag c = true) :
    r.raises i.op i.cmdData c := by
  obtain ⟨-, hraised | ⟨hkept, -⟩⟩ := (r.next_flag_iff i c).mp hafter
  · exact hraised
  · exact absurd hkept (Bool.eq_false_iff.mp hbefore)

/-- Settles O28: each flag that rises is the one condition the edge's command can raise. -/
theorem atMostOneErrorPerEdge : Obligations.AtMostOneErrorPerEdge := by
  intro s t c c' hstep hc htc hc' htc'
  rw [regs_of_step hstep] at htc htc'
  have hcause := Regs.possibleError_of_raises (Regs.raises_of_flag_rises hc htc)
  have hcause' := Regs.possibleError_of_raises (Regs.raises_of_flag_rises hc' htc')
  exact Option.some.inj (hcause.symm.trans hcause')

end Sys2Proof.Machine

/-!
PROOFS. Edges one after the other (70_reset_and_hazards.md R160, R171): what the reset edge leaves, and
that a command at the next edge works on the whole effect of the one before it.
-/

namespace Sys2Proof.Machine

/-! ## Runs edge by edge -/

theorem run_succ_of_step {s t : State} (h : step s = .next t) (k : Nat) :
    Host.Core.run Sys2Proof.core (k + 1) s = Host.Core.run Sys2Proof.core k t := by
  have hcore : Sys2Proof.core.step s = .next t := h
  simp only [Host.Core.run, hcore]

theorem run_two_of_steps {s m t : State} (hfirst : step s = .next m) (hsecond : step m = .next t) :
    Host.Core.run Sys2Proof.core 2 s = .next t :=
  (run_succ_of_step hfirst 1).trans (run_succ_of_step hsecond 0)

/-! ## Reset -/

/-- Settles O9: each edge with `rst = 1` writes `S_rst`, whatever the registers were; CLEAR keeps STEP and
CLEAR_FLAGS keeps ACC. -/
theorem resetEdgeWins : Obligations.ResetEdgeWins :=
  ⟨fun _ h => step_of_rst h,
    fun _ hfirst hsecond => run_two_of_steps (step_of_rst hfirst) (step_of_rst hsecond),
    fun s _ => ⟨_, _, exec_eq _ s, rfl, exec_eq _ s, rfl⟩⟩

/-! ## Two commands at two edges -/

theorem Regs.next_commandEdge {W : Nat} (r : Regs W) (c : Command W) :
    r.next (commandEdge c) = r.effect c := by
  rw [Regs.effect_eq_perform]
  rfl

/-- The edge at which the host issues a command leaves the state `exec` answers, and the edges after it. -/
theorem step_drive_issueEdge {i : Instr} {s t : State} (h : exec i s = .next t)
    (is : List (Inputs Config.W)) : step (s.drive (issueEdge i :: is)) = .next (t.drive is) := by
  obtain rfl : s.withRegs (s.regs.effect i.command) = t :=
    Host.Outcome.next.inj ((exec_eq i s).symm.trans h)
  rw [step_eq, State.drive_cons_ports, issueEdge, Regs.next_commandEdge]
  rfl

/-- Two commands at two edges do what `exec` does with the second on what the first leaves
(20_memory.md R56): no effect is still under way at the edge between them. -/
theorem run_two_issueEdges {i j : Instr} {s m t : State} (hfirst : exec i s = .next m)
    (hsecond : exec j m = .next t) :
    Host.Core.run Sys2Proof.core 2 (s.drive [issueEdge i, issueEdge j]) = .next (t.drive []) :=
  run_two_of_steps (step_drive_issueEdge hfirst _) (step_drive_issueEdge hsecond _)

theorem Regs.sampleAccepted_ready {W : Nat} (r : Regs W) (x : BitVec W) :
    (r.sampleAccepted x).ready = r.ready := by
  rw [Regs.sampleAccepted_eq]
  rfl

/-- Settles O36: the first command of each pair leaves the block READY, so the SAMPLE is accepted, on the
STEP and the ACC of the state that command leaves. -/
theorem nextEdgeSeesEffect : Obligations.NextEdgeSeesEffect := by
  refine ⟨fun s d x hd => ?afterSetStep, fun s x y hr => ?afterSample, fun s x hr => ?afterClear,
    fun s x hstep => ?afterClearFlags⟩
  case afterSetStep =>
    obtain ⟨-, -, hsetStep, -⟩ := setStepValidResult
    obtain ⟨m, t, hfirst, -, -, hsecond, hvalid, hacc⟩ := hsetStep d x s hd
    exact ⟨_, run_two_issueEdges hfirst hsecond, hvalid, hacc⟩
  case afterSample =>
    have hready := (s.regs.sampleAccepted_ready x).trans hr
    have hfirst := exec_sample_of_ready hr x
    have hsecond := exec_sample_withRegs_of_ready hready s y
    exact ⟨_, _, hfirst, run_two_issueEdges hfirst hsecond, Regs.sampleAccepted_validQ _ y,
      Regs.sampleAccepted_bitQ_iff _ y⟩
  case afterClear =>
    have hready : s.regs.clear.ready = true := hr
    have hsecond := exec_sample_withRegs_of_ready hready s x
    have hacc : sint s.regs.clear.acc = 0 := (sint_eq_zero_iff _).mpr rfl
    exact ⟨_, run_two_issueEdges (exec_eq (.clear 0) s) hsecond, Regs.sampleAccepted_validQ _ x,
      hacc ▸ s.regs.clear.sampleAccepted_bitQ_iff x⟩
  case afterClearFlags =>
    obtain ⟨-, -, hclearFlags, -⟩ := clearFlagsResult
    obtain ⟨m, t, hfirst, -, -, hsecond, hvalid, -⟩ := hclearFlags 0 x s hstep
    exact ⟨_, run_two_issueEdges hfirst hsecond, hvalid⟩

end Sys2Proof.Machine
